-- ==== Sys2Proof/Word.lean ====
section
/-! DEFINITION. The words of CORE: bytes, 32-bit words, 64-bit counts, slots of the cache, and the pixel. -/

namespace Sys2Proof

/-- A byte of a stream (`00_scope.md` R8). -/
abbrev Byte := BitVec 8

/-- A 32-bit word: the port word of a pixel (`20_memory.md` R31), a dimension of the header (R19). -/
abbrev Word := BitVec 32

/-- The width of PCNT and NPIX (`00_scope.md` R7, `COUNT_BITS`). -/
abbrev Count := BitVec 64

/-- An index of the cache, 0..63 (`20_memory.md` R38). -/
abbrev Slot := Fin 64

/-- A pixel: four 8-bit channels (`00_scope.md` R8); equality is of all four (`40_color_cache.md` R78). -/
structure Pixel where
  r : Byte
  g : Byte
  b : Byte
  a : Byte
deriving DecidableEq, Repr

end Sys2Proof
end

