-- ==== Sys2Proof/Config.lean ====
section
/-! DEFINITION. The constants of CORE (`00_scope.md` R7), its parameters, and the free values the spec leaves open. -/

namespace Sys2Proof

/-- The four error kinds, in the document's order (`60_exceptions.md` R160). -/
inductive ErrKind where
  /-- bad magic, zero width or height, invalid channels or colorspace byte -/
  | malformedHeader
  /-- the stream ends inside a chunk, or before NPIX pixels -/
  | truncatedStream
  /-- the stream does not end with the 8-byte marker -/
  | missingEndMarker
  /-- more pixels than declared, or a pixel source of another length -/
  | pixelCountMismatch
deriving DecidableEq, Repr

/-- The parameters of the step relation (`00_scope.md` R7, rows marked "parameter"; `92_eei_decisions.md`
D1, D9, D12). State carries one such record and no step writes it, so a statement about every state is a
statement about every value of the parameters (log 3). -/
structure Params where
  /-- MAGIC, the four magic bytes, the first of them in the highest bits -/
  magic : Word
  /-- SHORT_HEADER_ERR, the kind a stream of fewer than 14 bytes raises -/
  shortHeaderErr : ErrKind
  /-- STRICT_EOS, whether bytes after the end marker are rejected -/
  strictEos : Bool
deriving DecidableEq, Repr

namespace Config

/-- `DEFAULT_PIXEL`, opaque black (R7). -/
def defaultPixel : Pixel := ⟨0, 0, 0, 255⟩

/-- `RUN_MAX` (R7). -/
def runMax : BitVec 6 := 62

/-- The defaults of the parameters: MAGIC is ASCII "qoif" (PRESUMED, log 3), a short header is
`TruncatedStream`, the end of stream is strict (R7). -/
def defaultParams : Params :=
  { magic := 0x716F6966, shortHeaderErr := .truncatedStream, strictEos := true }

/-- What WIDTH holds between START of a decode pass and its header step, "unspecified" in
`10_state.md` R22: a free value, one for each draw (DESIGN CHOICE, log 2). -/
opaque freeWidth : Nat → Word

/-- The same for HEIGHT (log 2). -/
opaque freeHeight : Nat → Word

/-- The same for CHANNELS (log 2). -/
opaque freeChannels : Nat → Byte

/-- The same for COLORSPACE (log 2). -/
opaque freeColorspace : Nat → Byte

end Config

end Sys2Proof
end

