-- ==== Sys2Proof/Syntax.lean ====
section
/-! DEFINITION. The instructions of CORE: the six chunk kinds and the two framing records, one constructor for each
row of the opcode table, with operands as values and not as biased fields (`30_encoding.md` R50, R59, R63). -/

namespace Sys2Proof

/-- A record of a byte stream (`00_scope.md` R6: an instruction is a chunk or a framing record). -/
inductive Instr where
  /-- `RGBA(r,g,b,a)`: all four channels raw (R56) -/
  | rgba (r g b a : Byte)
  /-- `RGB(r,g,b)`: three channels raw, alpha of the previous pixel (R55) -/
  | rgb (r g b : Byte)
  /-- `Run(len)`, `len` in 1..62: the previous pixel `len` times (R52) -/
  | run (len : Nat)
  /-- `Index(i)`: the pixel of cache slot `i` (R52) -/
  | index (i : Slot)
  /-- `Diff(dr,dg,db)`, each in -2..1 (R53) -/
  | diff (dr dg db : Int)
  /-- `Luma(dg,drg,dbg)`, `dg` in -32..31, `drg` = dr - dg and `dbg` = db - dg in -8..7 (R54) -/
  | luma (dg drg dbg : Int)
  /-- `Header(w,h,c,s)` with the four magic bytes that stand before the fields (R57; log 10) -/
  | header (magic w h : Word) (c s : Byte)
  /-- `End`, the end marker (R58) -/
  | endMark
deriving DecidableEq, Repr

/-- Where a record may stand: HEADER and END are selected by position, a chunk by its tag (R50, R62). -/
inductive Place where
  /-- the first 14 bytes of the stream -/
  | header
  /-- a chunk boundary while fewer than NPIX pixels have been produced -/
  | chunk
  /-- the 8 bytes after the chunk that brings the pixel count to NPIX -/
  | trailer
deriving DecidableEq, Repr

end Sys2Proof
end

