-- ==== Sys2Proof/WellFormed.lean ====
section
/-! DEFINITION. Which terms of Instr are records: the operand ranges of `30_encoding.md` R50 and R59, the obligations
of the packer's caller (`42_byte_packer_unpacker.md` R131). -/

namespace Sys2Proof

/-- `lo ≤ x ≤ hi`, both ends included (`41_chunk_encoder.md` R84: "All bounds are inclusive"). -/
def inRange (lo hi x : Int) : Bool := decide (lo ≤ x) && decide (x ≤ hi)

/-- The operand ranges of a record. A bucket is a `Fin 64` and a raw channel a byte, so those kinds have no
check left. HEADER has none either: a header whose field values are illegal is a record that raises
`MalformedHeader` (R57), not a term without encoding (log 10). -/
def Instr.wellFormed : Instr → Bool
  | .rgba _ _ _ _ => true
  | .rgb _ _ _ => true
  | .run len => decide (1 ≤ len) && decide (len ≤ 62)
  | .index _ => true
  | .diff dr dg db => inRange (-2) 1 dr && inRange (-2) 1 dg && inRange (-2) 1 db
  | .luma dg drg dbg => inRange (-32) 31 dg && inRange (-8) 7 drg && inRange (-8) 7 dbg
  | .header _ _ _ _ _ => true
  | .endMark => true

end Sys2Proof
end

