-- ==== Sys2Proof/Decode.lean ====
section
/-! DEFINITION. The byte unpacker and the byte packer (`42_byte_packer_unpacker.md`): decoding, total on any bytes and
rejecting by name, then the encoder of the records, both from the layouts of `30_encoding.md` R50 to R62. -/

namespace Sys2Proof

/-- `b[hi:lo]`, a field of a byte as an unsigned number (`00_scope.md` R8). -/
def bits (b : Byte) (hi lo : Nat) : Nat := b.toNat / 2 ^ lo % 2 ^ (hi + 1 - lo)

/-- `unbe32` of four bytes, the first the most significant (`20_memory.md` R32). -/
def unbe32 (b0 b1 b2 b3 : Byte) : Word := b0 ++ b1 ++ b2 ++ b3

/-- `be32(v)`, most significant byte first (R32). -/
def be32 (v : Word) : List Byte :=
  [v.extractLsb' 24 8, v.extractLsb' 16 8, v.extractLsb' 8 8, v.extractLsb' 0 8]

/-- The end marker, seven zero bytes and a one (R58). -/
def endMarker : List Byte := [0, 0, 0, 0, 0, 0, 0, 1]

/-- Where a record stands in a stream (R50, R62). -/
def Instr.place : Instr → Place
  | .rgba _ _ _ _ => .chunk
  | .rgb _ _ _ => .chunk
  | .run _ => .chunk
  | .index _ => .chunk
  | .diff _ _ _ => .chunk
  | .luma _ _ _ => .chunk
  | .header _ _ _ _ _ => .header
  | .endMark => .trailer

/-- The length of a record in bytes (R50, R57, R58, R62). -/
def Instr.length : Instr → Nat
  | .rgba _ _ _ _ => 5
  | .rgb _ _ _ => 4
  | .run _ => 1
  | .index _ => 1
  | .diff _ _ _ => 1
  | .luma _ _ _ => 2
  | .header _ _ _ _ _ => 14
  | .endMark => 8

/-- Why bytes are no record at a place. -/
inductive Reject where
  /-- fewer than the 14 bytes of a header (R121) -/
  | shortHeader
  /-- no byte left, or fewer bytes than the chunk's layout requires (R122) -/
  | truncatedChunk
  /-- fewer than 8 bytes left, or they are not the end marker (R129) -/
  | noEndMarker
deriving DecidableEq, Repr

/-- `unpack_HEADER` as far as the bytes go: 14 bytes are split into fields; whether the fields are legal is
tested by the header step (R121; log 10). -/
def decodeHeader : List Byte → Except Reject (Instr × List Byte)
  | m0 :: m1 :: m2 :: m3 :: w0 :: w1 :: w2 :: w3 :: h0 :: h1 :: h2 :: h3 :: c :: s :: rest =>
    .ok (.header (unbe32 m0 m1 m2 m3) (unbe32 w0 w1 w2 w3) (unbe32 h0 h1 h2 h3) c s, rest)
  | _ => .error .shortHeader

/-- `unpack_RGBA` after the tag byte (R128). -/
def decodeRgba : List Byte → Except Reject (Instr × List Byte)
  | r :: g :: b :: a :: rest => .ok (.rgba r g b a, rest)
  | _ => .error .truncatedChunk

/-- `unpack_RGB` after the tag byte (R127). -/
def decodeRgb : List Byte → Except Reject (Instr × List Byte)
  | r :: g :: b :: rest => .ok (.rgb r g b, rest)
  | _ => .error .truncatedChunk

/-- `unpack_LUMA` with its tag byte `t` (R126). -/
def decodeLuma (t : Byte) : List Byte → Except Reject (Instr × List Byte)
  | u :: rest => .ok (.luma ((bits t 5 0 : Int) - 32) ((bits u 7 4 : Int) - 8) ((bits u 3 0 : Int) - 8), rest)
  | _ => .error .truncatedChunk

/-- `unpack_RUN` (R123). -/
def decodeRun (t : Byte) : Instr := .run (bits t 5 0 + 1)

/-- `unpack_INDEX` (R124). -/
def decodeIndex (t : Byte) : Instr := .index ⟨bits t 5 0, Nat.mod_lt _ (by decide)⟩

/-- `unpack_DIFF` (R125). -/
def decodeDiff (t : Byte) : Instr :=
  .diff ((bits t 5 4 : Int) - 2) ((bits t 3 2 : Int) - 2) ((bits t 1 0 : Int) - 2)

/-- `unpack_CHUNK` on the unread bytes: the first byte selects the kind in the order of `30_encoding.md` R51, the
record and the bytes after it are the answer (R122). -/
def decodeChunk : List Byte → Except Reject (Instr × List Byte)
  | [] => .error .truncatedChunk
  | t :: rest =>
    if t = 0xFF then decodeRgba rest
    else if t = 0xFE then decodeRgb rest
    else if bits t 7 6 = 0b11 then .ok (decodeRun t, rest)
    else if bits t 7 6 = 0b00 then .ok (decodeIndex t, rest)
    else if bits t 7 6 = 0b01 then .ok (decodeDiff t, rest)
    else decodeLuma t rest

/-- `unpack_END` as far as the eight bytes go (R129). -/
def decodeEnd (bs : List Byte) : Except Reject (Instr × List Byte) :=
  if bs.take 8 = endMarker then .ok (.endMark, bs.drop 8) else .error .noEndMarker

/-- The decoder: what the unread bytes are at a place, with the bytes after the record. -/
def decodeAt : Place → List Byte → Except Reject (Instr × List Byte)
  | .header, bs => decodeHeader bs
  | .chunk, bs => decodeChunk bs
  | .trailer, bs => decodeEnd bs

/-- The packer's byte lists (R111 to R118). Only for a well-formed record: see `pack`. -/
def encode : Instr → List Byte
  | .rgba r g b a => [0xFF, r, g, b, a]
  | .rgb r g b => [0xFE, r, g, b]
  | .run len => [BitVec.ofNat 8 (0xC0 + (len - 1))]
  | .index i => [BitVec.ofNat 8 (0x00 + i.val)]
  | .diff dr dg db => [BitVec.ofInt 8 (0x40 + (dr + 2) * 16 + (dg + 2) * 4 + (db + 2))]
  | .luma dg drg dbg =>
    [BitVec.ofInt 8 (0x80 + (dg + 32)), BitVec.ofInt 8 ((drg + 8) * 16 + (dbg + 8))]
  | .header magic w h c s => be32 magic ++ be32 w ++ be32 h ++ [c] ++ [s]
  | .endMark => endMarker

/-- The packer with its precondition: a record with an operand outside its range is refused, never truncated
(R131, `93_implementation_defined.md` U6). -/
def pack (i : Instr) : Option (List Byte) := if i.wellFormed then some (encode i) else none

/-- The longest chunk, in bytes (R50). -/
def longestChunk : Nat := 5

/-- The first `n` bytes of a number whose least significant byte is the first of the stream. -/
def bytesOf : Nat → Nat → List Byte
  | 0, _ => []
  | n + 1, w => BitVec.ofNat 8 (w % 256) :: bytesOf n (w / 256)

/-- The place a row of the opcode table stands at, by its length: 14 bytes are HEADER, 8 bytes are END, every
other row is a chunk. -/
def tablePlace (nbits : Nat) : Place :=
  if nbits = 112 then .header else if nbits = 64 then .trailer else .chunk

/-- The bytes of an instruction given by number as the opcode table numbers its bits, filled up with zero bytes to
the longest chunk. -/
def tableBytes (nbits w : Nat) : List Byte :=
  match tablePlace nbits with
  | .header => bytesOf 14 w
  | .trailer => bytesOf 8 w
  | .chunk => bytesOf longestChunk w

/-- The instruction the decoder reads from an instruction word of the opcode table. -/
def decodeTableWord (nbits w : Nat) : Option Instr :=
  match decodeAt (tablePlace nbits) (tableBytes nbits w) with
  | .ok (i, _) => some i
  | .error _ => none

end Sys2Proof
end

