-- ==== Sys2Proof/Machine/State.lean ====
section
/-! DEFINITION. The state of CORE (`10_state.md` R10 to R24), the ports that lie in it (`20_memory.md` R30), the reasons
a step can stop, and the state after power-on (R22). -/

namespace Sys2Proof.Machine

open Sys2Proof

/-- MODE (`10_state.md` R16). -/
inductive Mode where
  /-- code 0 -/
  | encode
  /-- code 1 -/
  | decode
deriving DecidableEq, Repr

/-- PHASE, the position of the active pass (`10_state.md` R17); codes 6 and 7 do not exist. -/
inductive Phase where
  /-- code 0: no pass -/
  | idle
  /-- code 1: the header is not yet emitted or parsed -/
  | header
  /-- code 2: PCNT < NPIX -/
  | body
  /-- code 3: PCNT = NPIX, the end marker is not yet emitted or checked -/
  | trailer
  /-- code 4: the pass is complete -/
  | done
  /-- code 5: the pass was aborted by an error -/
  | error
deriving DecidableEq, Repr

/-- The four header values the host gives an encode pass (`00_scope.md` glossary, `10_state.md` R19). -/
structure Descriptor where
  width : Word
  height : Word
  channels : Byte
  colorspace : Byte
deriving DecidableEq, Repr

/-- An item of the CMD port (`20_memory.md` R30): the descriptor comes only with START in ENCODE mode
(`60_exceptions.md` R171). -/
inductive Command where
  /-- START(ENCODE, descriptor) -/
  | startEncode (d : Descriptor)
  /-- START(DECODE) -/
  | startDecode
  /-- ABORT -/
  | abort
deriving DecidableEq, Repr

/-- The state: the registers of `10_state.md` R10, the model positions of R14, the streams of `20_memory.md` R30, the
parameters of R24 and the counter of the free values. -/
structure State where
  /-- CACHE[0..63], the colour cache (R15) -/
  cache : Vector Pixel 64
  /-- PREV, the previous pixel (R11) -/
  prev : Pixel
  /-- RUN, the run counter (R12) -/
  run : BitVec 6
  /-- PCNT, the pixel counter (R13) -/
  pcnt : Count
  /-- WIDTH (R19) -/
  width : Word
  /-- HEIGHT (R19) -/
  height : Word
  /-- CHANNELS (R19) -/
  channels : Byte
  /-- COLORSPACE (R19) -/
  colorspace : Byte
  /-- MODE (R16) -/
  mode : Mode
  /-- PHASE (R17) -/
  phase : Phase
  /-- ERR, `none` for code 0 (R18) -/
  err : Option ErrKind
  /-- BPOS, the offset of the next unread byte of BYTE_IN (R14) -/
  bpos : Nat
  /-- BYTE_IN, the whole input of a decode pass; its length is LEN (`00_scope.md` R9; log 4) -/
  byteIn : List Byte
  /-- PIX_IN, the whole input of an encode pass in port words; PCNT indexes it (R14; log 4) -/
  pixIn : List Word
  /-- BYTE_OUT, the bytes written so far in this pass; its length is OLEN (`00_scope.md` R9; log 11) -/
  byteOut : List Byte
  /-- PIX_OUT, the pixels put so far in this pass in port words (`20_memory.md` R31; log 11) -/
  pixOut : List Word
  /-- CMD: what the host presents at each coming step boundary, the next one first; `none` is no command, and
  after the last entry the host presents nothing (log 5) -/
  cmdIn : List (Option Command)
  /-- MAGIC, SHORT_HEADER_ERR and STRICT_EOS (R24; log 3) -/
  params : Params
  /-- the model's own: how many free values have been drawn (log 2) -/
  draws : Nat
deriving DecidableEq, Repr

/-- Why a meaning stops with a fault. -/
inductive Fault where
  /-- Raised by the meaning of an instruction asked for outside the mode and phase that enable it (`43_chunk_decoder.md`
  R142, R152, R153): no step is enabled there. The step function never raises it. Safe (log 8). -/
  | stepNotEnabled
deriving DecidableEq, Repr

/-- Why a step or a meaning is refused. -/
inductive Refusal where
  /-- Raised by an arm of the dispatch for an instruction that has no meaning yet; no arm does. Safe. -/
  | notModelled (mnemonic : String)
  /-- Raised by the meaning of a term that is no record: an operand outside the range of its kind
  (`42_byte_packer_unpacker.md` R131). The decoder yields no such term. Safe (log 9). -/
  | operandOutOfRange
  /-- Raised by an encoder step whose chunk has an operand outside the packer's precondition (R131, 93 U6). No state
  that a run reaches does. Safe (log 9). -/
  | packOperandOutOfRange
  /-- Raised by the step that meets START while a pass is active (`60_exceptions.md` R171, 93 U9). Safe (log 7). -/
  | startDuringPass
deriving DecidableEq, Repr

/-- The three outcomes of a step of CORE. -/
abbrev Outcome := Host.Outcome State Fault Refusal

/-- Power-on (`10_state.md` R22): PHASE = IDLE and ERR = 0 by the rule, the parameters at their defaults (R7), every
other register at the value log 1 names. -/
def State.reset : State :=
  { cache := Vector.replicate 64 Config.defaultPixel
    prev := Config.defaultPixel
    run := 0
    pcnt := 0
    width := 0
    height := 0
    channels := 0
    colorspace := 0
    mode := .encode
    phase := .idle
    err := none
    bpos := 0
    byteIn := []
    pixIn := []
    byteOut := []
    pixOut := []
    cmdIn := []
    params := Config.defaultParams
    draws := 0 }

end Sys2Proof.Machine
end

