-- ==== Sys2Proof/Machine/Operands.lean ====
section
/-! DEFINITION. Operand forms: the port word of a pixel, the wrapped 8-bit arithmetic of the delta unit, the deltas of
a pixel, and the pixels that the operands of DIFF and LUMA stand for. -/

namespace Sys2Proof.Machine

open Sys2Proof

/-- The pixel of a port word: `r` in bits 7:0, `g` 15:8, `b` 23:16, `a` 31:24 (`20_memory.md` R31). -/
def pixelOfWord (w : Word) : Pixel :=
  ⟨w.extractLsb' 0 8, w.extractLsb' 8 8, w.extractLsb' 16 8, w.extractLsb' 24 8⟩

/-- The port word of a pixel (R31). -/
def wordOfPixel (p : Pixel) : Word := p.a ++ p.b ++ p.g ++ p.r

/-- `u8(x) = x mod 256` (`00_scope.md` R8). -/
def u8 (x : Int) : Byte := BitVec.ofInt 8 x

/-- `s8(v)`, a byte read as two's complement (R8). -/
def s8 (v : Byte) : Int := v.toInt

/-- `wrap8(x) = s8(u8(x))`, "wrapped to 8-bit signed arithmetic" (R8). -/
def wrap8 (x : Int) : Int := s8 (u8 x)

/-- The delta of one channel, current minus previous, wrapped (`41_chunk_encoder.md` R81). -/
def channelDelta (cur prev : Byte) : Int := wrap8 ((cur.toNat : Int) - (prev.toNat : Int))

/-- The five values of the delta unit (R81, R82). -/
structure Deltas where
  dr : Int
  dg : Int
  db : Int
  drg : Int
  dbg : Int
deriving DecidableEq, Repr

/-- The delta unit: three wrapped channel deltas and two wrapped differences from green (R81, R82). -/
def deltas (px prev : Pixel) : Deltas :=
  { dr := channelDelta px.r prev.r
    dg := channelDelta px.g prev.g
    db := channelDelta px.b prev.b
    drg := wrap8 (channelDelta px.r prev.r - channelDelta px.g prev.g)
    dbg := wrap8 (channelDelta px.b prev.b - channelDelta px.g prev.g) }

/-- A channel moved by a delta, modulo 256 (`43_chunk_decoder.md` R145). -/
def addDelta (c : Byte) (d : Int) : Byte := u8 ((c.toNat : Int) + d)

/-- The pixel of a DIFF chunk after `prev` (R145). -/
def diffPixel (dr dg db : Int) (prev : Pixel) : Pixel :=
  ⟨addDelta prev.r dr, addDelta prev.g dg, addDelta prev.b db, prev.a⟩

/-- The pixel of a LUMA chunk after `prev` (R146). -/
def lumaPixel (dg drg dbg : Int) (prev : Pixel) : Pixel :=
  ⟨addDelta prev.r (dg + drg), addDelta prev.g dg, addDelta prev.b (dg + dbg), prev.a⟩

end Sys2Proof.Machine
end

