-- ==== Sys2Proof/Machine/Flags.lean ====
section
/-! DEFINITION. CORE has no condition codes and no arithmetic flags (`10_state.md` R20). What it tests are the three
predicates of the encoder's selector (`41_chunk_encoder.md` R84) and the legality of a descriptor (`30_encoding.md` R57);
the only status a host reads is coded here (R17, R18). -/

namespace Sys2Proof.Machine

open Sys2Proof

/-- `alpha_same` (R84). -/
def alphaSame (px prev : Pixel) : Bool := decide (px.a = prev.a)

/-- `diff_ok` (R84). -/
def diffOk (px prev : Pixel) : Bool :=
  let d := deltas px prev
  alphaSame px prev && inRange (-2) 1 d.dr && inRange (-2) 1 d.dg && inRange (-2) 1 d.db

/-- `luma_ok` (R84). -/
def lumaOk (px prev : Pixel) : Bool :=
  let d := deltas px prev
  alphaSame px prev && inRange (-32) 31 d.dg && inRange (-8) 7 d.drg && inRange (-8) 7 d.dbg

/-- The legal header values apart from the magic (R57): both dimensions above zero, channels 3 or 4, colorspace 0
or 1. Both header steps test it (`41_chunk_encoder.md` R101, `42_byte_packer_unpacker.md` R121). -/
def legalDescriptor (w h : Word) (c s : Byte) : Bool :=
  decide (w ≠ 0) && decide (h ≠ 0) && (decide (c = 3) || decide (c = 4)) && (decide (s = 0) || decide (s = 1))

/-- The code of MODE (`10_state.md` R16). -/
def Mode.code : Mode → BitVec 1
  | .encode => 0
  | .decode => 1

/-- The code of PHASE (R17). -/
def Phase.code : Phase → BitVec 3
  | .idle => 0
  | .header => 1
  | .body => 2
  | .trailer => 3
  | .done => 4
  | .error => 5

/-- A pass is active: ABORT is accepted and START is not (`60_exceptions.md` R169, R171). -/
def Phase.active : Phase → Bool
  | .idle => false
  | .header => true
  | .body => true
  | .trailer => true
  | .done => false
  | .error => false

/-- `code(K)` (`60_exceptions.md` R160). -/
def errKindCode : ErrKind → BitVec 3
  | .malformedHeader => 1
  | .truncatedStream => 2
  | .missingEndMarker => 3
  | .pixelCountMismatch => 4

/-- The code of ERR (`10_state.md` R18). -/
def errCode : Option ErrKind → BitVec 3
  | none => 0
  | some k => errKindCode k

end Sys2Proof.Machine
end

