-- ==== Sys2Proof/Machine/Ops.lean ====
section
/-! DEFINITION. The named operations over the registers, the cache and the streams; the error entry, which is what stands
for taking an exception, and START, the only way out of it (`60_exceptions.md` R165, R168). -/

namespace Sys2Proof.Machine

open Sys2Proof

/-- `hash(p)` (`40_color_cache.md` R70). -/
def pixelHash (p : Pixel) : Slot :=
  ⟨(p.r.toNat * 3 + p.g.toNat * 5 + p.b.toNat * 7 + p.a.toNat * 11) % 64, Nat.mod_lt _ (by decide)⟩

/-- The indexed read of the cache (R76). -/
def State.slot (s : State) (i : Slot) : Pixel := s.cache.get i

/-- `lookup(p)` (R72). -/
def State.lookup (s : State) (p : Pixel) : Bool := decide (s.slot (pixelHash p) = p)

/-- `store(p)` (R73). -/
def State.store (s : State) (p : Pixel) : State := { s with cache := s.cache.set (pixelHash p) p }

/-- NPIX, the 64-bit product of WIDTH and HEIGHT (`10_state.md` R19). -/
def State.npix (s : State) : Count := s.width.setWidth 64 * s.height.setWidth 64

/-- LEN, the length of the input byte stream (`00_scope.md` R9). -/
def State.len (s : State) : Nat := s.byteIn.length

/-- OLEN, the count of bytes written so far in this pass (R9). -/
def State.olen (s : State) : Nat := s.byteOut.length

/-- The bytes of BYTE_IN from an offset on. Reading them consumes nothing (R9, `20_memory.md` R36). -/
def State.unread (s : State) (addr : Nat) : List Byte := s.byteIn.drop addr

/-- The pixel `TakePixel()` returns, if PIX_IN has a further one: the one PCNT indexes (R9, `10_state.md` R14). -/
def State.nextPixel (s : State) : Option Pixel := (s.pixIn[s.pcnt.toNat]?).map pixelOfWord

/-- `PixAtEnd()` (R9). -/
def State.pixAtEnd (s : State) : Bool := decide (s.pixIn.length ≤ s.pcnt.toNat)

/-- `Emit(v)`: append to BYTE_OUT (R9). -/
def State.emit (s : State) (bs : List Byte) : State := { s with byteOut := s.byteOut ++ bs }

/-- `PutPixel(p)`, `n` times: append to PIX_OUT (R9). -/
def State.putPixels (s : State) (n : Nat) (p : Pixel) : State :=
  { s with pixOut := s.pixOut ++ List.replicate n (wordOfPixel p) }

/-- `RUN <- n`. -/
def State.setRun (s : State) (n : BitVec 6) : State := { s with run := n }

/-- `PHASE <- p`. -/
def State.setPhase (s : State) (p : Phase) : State := { s with phase := p }

/-- `MODE <- m`. -/
def State.setMode (s : State) (m : Mode) : State := { s with mode := m }

/-- `pc <- n` in a decode pass (`00_scope.md` R9). -/
def State.setPos (s : State) (n : Nat) : State := { s with bpos := n }

/-- `PREV <- px`. -/
def State.setPrev (s : State) (p : Pixel) : State := { s with prev := p }

/-- PCNT grows by `n`, and the step that makes PCNT = NPIX goes to TRAILER (`41_chunk_encoder.md` R85,
`43_chunk_decoder.md` R142). -/
def State.countPixels (s : State) (n : Nat) : State :=
  let c : Count := s.pcnt + BitVec.ofNat 64 n
  { s with pcnt := c, phase := if c = s.npix then .trailer else s.phase }

/-- `pc <- BPOS + n`, the last action of a decoder step (`10_state.md` R14). -/
def State.advance (s : State) (n : Nat) : State := { s with bpos := s.bpos + n }

/-- Error entry, `raise <Kind>`: PHASE and ERR are written and nothing else (`60_exceptions.md` R165). -/
def State.raise (s : State) (k : ErrKind) : State := { s with phase := .error, err := some k }

/-- One atomic step (`20_memory.md` R41): its effect, or the error entry on the state before it (R165). -/
def atomically (s : State) (effect : State → Except ErrKind State) : Outcome :=
  match effect s with
  | .ok t => .next t
  | .error k => .next (s.raise k)

/-- The phase in which the record of a place is executed (`43_chunk_decoder.md` R142, R152, R153). -/
def placePhase : Place → Phase
  | .header => .header
  | .chunk => .body
  | .trailer => .trailer

/-- The decoder step of a record: refused for a term that is no record (R131, log 9), not enabled outside
its mode and phase (`43_chunk_decoder.md` R142, R152, R153; log 8), atomic otherwise. -/
def decoderStep (i : Instr) (s : State) (effect : State → Except ErrKind State) : Outcome :=
  if i.wellFormed then
    if s.mode = .decode ∧ s.phase = placePhase i.place then atomically s effect else .fault .stepNotEnabled
  else .refused .operandOutOfRange

/-- What a one-pixel chunk does once its pixel is known: put it, make it PREV, count it, pass the chunk's bytes
(R142, R144 to R148). -/
def State.yield (s : State) (px : Pixel) (n : Nat) : State :=
  (((s.putPixels 1 px).setPrev px).countPixels 1).advance n

/-- A chunk the encoder emitted on a cache miss: store the pixel, then yield it (R141, R145 to R148). -/
def State.storeAndYield (s : State) (px : Pixel) (n : Nat) : State := (s.store px).yield px n

/-- The reset that START performs, but for MODE and the descriptor (`70_reset_and_hazards.md` R190; the output streams
of the new pass are empty, log 11). -/
def State.startPass (s : State) : State :=
  { s with
    cache := Vector.replicate 64 Config.defaultPixel
    prev := Config.defaultPixel
    run := 0
    pcnt := 0
    err := none
    bpos := 0
    byteOut := []
    pixOut := []
    phase := .header }

/-- The descriptor registers written at once (`10_state.md` R19). -/
def State.setDescriptor (s : State) (d : Descriptor) : State :=
  { s with width := d.width, height := d.height, channels := d.channels, colorspace := d.colorspace }

/-- The descriptor registers as the host reads them (R19). -/
def State.descriptor (s : State) : Descriptor := ⟨s.width, s.height, s.channels, s.colorspace⟩

/-- The descriptor registers unspecified until the header step writes them: a fresh draw of each (R22; log 2). -/
def State.forgetDescriptor (s : State) : State :=
  { s with
    width := Config.freeWidth s.draws
    height := Config.freeHeight s.draws
    channels := Config.freeChannels s.draws
    colorspace := Config.freeColorspace s.draws
    draws := s.draws + 1 }

/-- What the STATUS port shows (`20_memory.md` R30). -/
structure Status where
  phase : BitVec 3
  err : BitVec 3
  descriptor : Descriptor
deriving DecidableEq, Repr

/-- The STATUS port. -/
def State.status (s : State) : Status := ⟨s.phase.code, errCode s.err, s.descriptor⟩

end Sys2Proof.Machine
end

