-- ==== Sys2Proof/Machine/Command.lean ====
section
/-! DEFINITION. The two commands of the host (`60_exceptions.md` R169, R171, `70_reset_and_hazards.md` R190). -/

namespace Sys2Proof.Machine

open Sys2Proof

/-- START in ENCODE mode: the reset, the mode, the descriptor given (R171, R190). -/
def startEncode (d : Descriptor) (s : State) : Outcome :=
  if s.phase.active then .refused .startDuringPass
  else .next ((s.startPass.setMode .encode).setDescriptor d)

/-- START in DECODE mode: the reset, the mode; the descriptor registers are unspecified until the header step
(R171, R190, `10_state.md` R22; log 2). -/
def startDecode (s : State) : Outcome :=
  if s.phase.active then .refused .startDuringPass
  else .next (s.startPass.setMode .decode).forgetDescriptor

/-- ABORT: ends an active pass, does nothing otherwise (R169). -/
def abortPass (s : State) : Outcome :=
  .next (if s.phase.active then s.setPhase .idle else s)

/-- What a command does. -/
def command (c : Command) (s : State) : Outcome :=
  match c with
  | .startEncode d => startEncode d s
  | .startDecode => startDecode s
  | .abort => abortPass s

end Sys2Proof.Machine
end

