-- ==== Sys2Proof/Machine/DeltaChunks.lean ====
section
/-! DEFINITION. The delta chunks in the decoder: DIFF and LUMA (`43_chunk_decoder.md` R145, R146). -/

namespace Sys2Proof.Machine

open Sys2Proof

/-- DIFF: three deltas added to PREV modulo 256, alpha copied (R145). -/
def execDiff (dr dg db : Int) (s : State) : Outcome :=
  decoderStep (.diff dr dg db) s fun s => .ok (s.storeAndYield (diffPixel dr dg db s.prev) 1)

/-- LUMA: the green delta and two deltas relative to it added to PREV modulo 256, alpha copied (R146). -/
def execLuma (dg drg dbg : Int) (s : State) : Outcome :=
  decoderStep (.luma dg drg dbg) s fun s => .ok (s.storeAndYield (lumaPixel dg drg dbg s.prev) 2)

end Sys2Proof.Machine
end

