-- ==== Sys2Proof/Machine/Framing.lean ====
section
/-! DEFINITION. The framing records in the decoder: HEADER and END (`43_chunk_decoder.md` R152, R153). -/

namespace Sys2Proof.Machine

open Sys2Proof

/-- HEADER: five tests, all of one kind (`42_byte_packer_unpacker.md` R121), then the descriptor registers, the position
14 and the first chunk (R152). -/
def execHeader (magic w h : Word) (c cs : Byte) (s : State) : Outcome :=
  decoderStep (.header magic w h c cs) s fun s =>
    if magic = s.params.magic ∧ legalDescriptor w h c cs = true then
      .ok (((s.setDescriptor ⟨w, h, c, cs⟩).setPos 14).setPhase .body)
    else .error .malformedHeader

/-- END: the marker was there; bytes after it are rejected under STRICT_EOS (R129), otherwise the pass is done (R153). -/
def execEnd (s : State) : Outcome :=
  decoderStep .endMark s fun s =>
    if s.params.strictEos ∧ s.len - s.bpos > 8 then .error .missingEndMarker
    else .ok ((s.advance 8).setPhase .done)

end Sys2Proof.Machine
end

