-- ==== Sys2Proof/Machine/RawChunks.lean ====
section
/-! DEFINITION. The raw chunks in the decoder: RGBA and RGB (`43_chunk_decoder.md` R147, R148). -/

namespace Sys2Proof.Machine

open Sys2Proof

/-- RGBA: all four channels are new (R148). -/
def execRgba (r g b a : Byte) (s : State) : Outcome :=
  decoderStep (.rgba r g b a) s fun s => .ok (s.storeAndYield ⟨r, g, b, a⟩ 5)

/-- RGB: alpha is copied from PREV (R147). -/
def execRgb (r g b : Byte) (s : State) : Outcome :=
  decoderStep (.rgb r g b) s fun s => .ok (s.storeAndYield ⟨r, g, b, s.prev.a⟩ 4)

end Sys2Proof.Machine
end

