-- ==== Sys2Proof/Machine/RepeatChunks.lean ====
section
/-! DEFINITION. The chunks that do not store in the decoder: RUN and INDEX (`43_chunk_decoder.md` R143, R144). -/

namespace Sys2Proof.Machine

open Sys2Proof

/-- RUN: the previous pixel `len` times in one step, refused with `PixelCountMismatch` when it would pass the declared
pixel count; neither CACHE nor PREV is written (R143). -/
def execRun (len : Nat) (s : State) : Outcome :=
  decoderStep (.run len) s fun s =>
    if len > s.npix.toNat - s.pcnt.toNat then .error .pixelCountMismatch
    else .ok (((s.putPixels len s.prev).countPixels len).advance 1)

/-- INDEX: the pixel of the named slot, without a store (R144). -/
def execIndex (i : Slot) (s : State) : Outcome :=
  decoderStep (.index i) s fun s => .ok (s.yield (s.slot i) 1)

end Sys2Proof.Machine
end

