-- ==== Sys2Proof/Machine/Dispatch.lean ====
section
/-! DEFINITION. One arm for each instruction, one call of its meaning. -/

namespace Sys2Proof.Machine

open Sys2Proof

def exec (i : Instr) (s : State) : Host.Outcome State Fault Refusal :=
  match i with
  | .rgba r g b a => Sys2Proof.Machine.execRgba r g b a s
  | .rgb r g b => Sys2Proof.Machine.execRgb r g b s
  | .run len => Sys2Proof.Machine.execRun len s
  | .index j => Sys2Proof.Machine.execIndex j s
  | .diff dr dg db => Sys2Proof.Machine.execDiff dr dg db s
  | .luma dg drg dbg => Sys2Proof.Machine.execLuma dg drg dbg s
  | .header magic w h c cs => Sys2Proof.Machine.execHeader magic w h c cs s
  | .endMark => Sys2Proof.Machine.execEnd s

end Sys2Proof.Machine
end

