-- ==== Sys2Proof/Machine/Encoder.lean ====
section
/-! DEFINITION. The chunk encoder: the header step, the pixel step with its selector and run counter, the trailer step
(`41_chunk_encoder.md` R85 to R103). -/

namespace Sys2Proof.Machine

open Sys2Proof

/-- Do one part of a step, then the next on the state it left; a stop of the first is the stop of both. -/
def andThen (o : Outcome) (f : State → Outcome) : Outcome :=
  match o with
  | .next t => f t
  | .fault r => .fault r
  | .refused r => .refused r

/-- `Emit(pack_X(...))`: the packer refuses operands outside its precondition (`42_byte_packer_unpacker.md` R110, R131). -/
def emitRecord (i : Instr) (s : State) : Outcome :=
  match pack i with
  | some bs => .next (s.emit bs)
  | none => .refused .packOperandOutOfRange

/-- `last`: this is the final pixel of the image (R85, R95). -/
def State.atFinalPixel (s : State) : Bool := decide (s.pcnt = s.npix - 1)

/-- Emit the accumulated run and reset the counter (R86, R87). -/
def flushRun (s : State) : Outcome :=
  andThen (emitRecord (.run s.run.toNat) s) fun t => .next (t.setRun 0)

/-- Rule 1, run continuation: count first, flush at 62 or at the final pixel (R86). -/
def continueRun (s : State) : Outcome :=
  let t := s.setRun (s.run + 1)
  if t.run = Config.runMax ∨ t.atFinalPixel = true then flushRun t else .next t

/-- Rule 2, run flush on change (R87). -/
def flushPending (s : State) : Outcome := if s.run = 0 then .next s else flushRun s

/-- Rules 4a to 4d: the chunk of a pixel that misses the cache (R85, R90 to R93). -/
def missChunk (px prev : Pixel) : Instr :=
  let d := deltas px prev
  if diffOk px prev then .diff d.dr d.dg d.db
  else if lumaOk px prev then .luma d.dg d.drg d.dbg
  else if alphaSame px prev then .rgb px.r px.g px.b
  else .rgba px.r px.g px.b px.a

/-- Rules 3 and 4: an index hit, or a store and the chunk of the miss; then PREV (R85, R89, R94, R195). -/
def codePixel (px : Pixel) (s : State) : Outcome :=
  if s.lookup px then
    andThen (emitRecord (.index (pixelHash px)) s) fun t => .next (t.setPrev px)
  else
    andThen (emitRecord (missChunk px s.prev) (s.store px)) fun t => .next (t.setPrev px)

/-- The pixel step: strict priority, first match wins (R85); a source that has ended raises (R103). -/
def encodePixel (s : State) : Outcome :=
  match s.nextPixel with
  | none => .next (s.raise .pixelCountMismatch)
  | some px =>
    andThen (if px = s.prev then continueRun s else andThen (flushPending s) (codePixel px))
      fun t => .next (t.countPixels 1)

/-- The encoder header step (R101). -/
def encodeHeader (s : State) : Outcome :=
  if legalDescriptor s.width s.height s.channels s.colorspace then
    andThen (emitRecord (.header s.params.magic s.width s.height s.channels s.colorspace) s) fun t =>
      .next (t.setPhase .body)
  else .next (s.raise .malformedHeader)

/-- The encoder trailer step (R102). -/
def encodeTrailer (s : State) : Outcome :=
  if s.pixAtEnd then andThen (emitRecord .endMark s) fun t => .next (t.setPhase .done)
  else .next (s.raise .pixelCountMismatch)

end Sys2Proof.Machine
end

