-- ==== Sys2Proof/Machine/Pass.lean ====
section
/-! DEFINITION. A step of the active pass: what the decoder fetches and executes, which step the encoder takes
(`10_state.md` R17, `43_chunk_decoder.md` R142, R152, R153), and the placing of one record where it is fetched next. -/

namespace Sys2Proof.Machine

open Sys2Proof

/-- The error kind of bytes that are no record at their place (`42_byte_packer_unpacker.md` R121, R122, R129). -/
def rejectKind (p : Params) : Reject → ErrKind
  | .shortHeader => p.shortHeaderErr
  | .truncatedChunk => .truncatedStream
  | .noEndMarker => .missingEndMarker

/-- Where the decoder reads in a phase: HEADER at offset 0 (R121), chunks and END at BPOS (R122, R129). -/
def fetchPlace : Phase → Place
  | .idle => .header
  | .header => .header
  | .body => .chunk
  | .trailer => .trailer
  | .done => .trailer
  | .error => .trailer

/-- The record the decoder reads next, or the kind it raises. Nothing is consumed. -/
def fetch (s : State) : Except ErrKind Instr :=
  let addr := match fetchPlace s.phase with
    | .header => 0
    | .chunk => s.bpos
    | .trailer => s.bpos
  match decodeAt (fetchPlace s.phase) (s.unread addr) with
  | .ok (i, _) => .ok i
  | .error r => .error (rejectKind s.params r)

/-- A decoder step: fetch, then execute or raise (R142, R152, R153). -/
def decodeStep (s : State) : Outcome :=
  match fetch s with
  | .ok i => exec i s
  | .error k => .next (s.raise k)

/-- An encoder step in the phase the pass is in (`41_chunk_encoder.md` R80). -/
def encodeStep (s : State) : Outcome :=
  match s.phase with
  | .header => encodeHeader s
  | .body => encodePixel s
  | .trailer => encodeTrailer s
  | .idle => .next s
  | .done => .next s
  | .error => .next s

/-- A step of the active pass by MODE; with no pass active no step is enabled and the state waits for START unchanged
(`10_state.md` R17; log 6). -/
def passStep (s : State) : Outcome :=
  if s.phase.active then
    match s.mode with
    | .encode => encodeStep s
    | .decode => decodeStep s
  else .next s

/-- The state after the host's entry for this boundary is taken from the CMD schedule (log 5). -/
def State.boundary (s : State) : State := { s with cmdIn := s.cmdIn.tail }

/-- The command the host presents at this boundary (`60_exceptions.md` R169: "taken only between steps"). -/
def State.offered (s : State) : Option Command := s.cmdIn.head?.join

/-- A list filled up or cut to `n` entries. -/
def fitTo (n : Nat) (xs : List Byte) : List Byte := (xs ++ List.replicate n 0).take n

/-- The stream with bytes written over it from an offset on. -/
def overwrite (addr : Nat) (bs xs : List Byte) : List Byte :=
  fitTo addr xs ++ bs ++ xs.drop (addr + bs.length)

/-- A chunk step is enabled: a decode pass with pixels still missing (R142). -/
def State.inChunks (s : State) : Bool :=
  decide (s.mode = .decode) && decide (s.phase = .body) && decide (s.pcnt < s.npix)

/-- The state in which one record, given by number as the opcode table numbers its bits, is what the decoder runs next:
a decode pass in the record's phase, no command at the boundary, the bytes where the fetch reads them. A chunk is placed
in the chunk phase of an image with room for it, unless the state is in one already; nothing follows the end marker. -/
def loadRecord (s : State) (nbits w : Nat) : State :=
  let bs := tableBytes nbits w
  match tablePlace nbits with
  | .header => { s with mode := .decode, phase := .header, cmdIn := [], byteIn := overwrite 0 bs s.byteIn }
  | .trailer => { s with mode := .decode, phase := .trailer, cmdIn := [], byteIn := fitTo s.bpos s.byteIn ++ bs }
  | .chunk =>
    let t := { s with cmdIn := [], byteIn := overwrite s.bpos bs s.byteIn }
    if s.inChunks then t else { t with mode := .decode, phase := .body, pcnt := 0, width := 64, height := 1 }

end Sys2Proof.Machine
end

