-- ==== Sys2Proof/Machine/Step.lean ====
section
/-! DEFINITION. One step of the machine: the host's command if it presents one at this boundary, otherwise the step of
the pass (`60_exceptions.md` R169, `20_memory.md` R41). -/

namespace Sys2Proof.Machine

open Sys2Proof

/-- One step. -/
def step (s : State) : Host.Outcome State Fault Refusal :=
  match s.offered with
  | some c => command c s.boundary
  | none => passStep s.boundary

/-- The state whose next step fetches and runs the given instruction word (`loadRecord`). -/
def State.withFetchWord (s : State) (nbits w : Nat) : State := loadRecord s nbits w

end Sys2Proof.Machine
end

