-- ==== Sys2Proof/Safety.lean ====
section
/-! DEFINITION. The terms claims use: what may be observed of a pass, runs, the invariant of a pass (`10_state.md` R25)
and the agreement of an encoder with the decoder of its stream (`40_color_cache.md` R79). -/

namespace Sys2Proof.Machine

open Sys2Proof

/-- What a pass gives its host (`20_memory.md` R47): output at DONE, a kind without output at ERROR. -/
inductive PassResult where
  /-- an encode pass reached DONE with this stream -/
  | encoded (bytes : List Byte)
  /-- a decode pass reached DONE with this image -/
  | decoded (d : Descriptor) (pixels : List Pixel)
  /-- the pass reached ERROR -/
  | failed (k : ErrKind)
deriving DecidableEq, Repr

/-- The result of the pass, none while it runs and none after an abort (R47, `60_exceptions.md` R166, R169). -/
def State.result (s : State) : Option PassResult :=
  match s.phase with
  | .done =>
    match s.mode with
    | .encode => some (.encoded s.byteOut)
    | .decode => some (.decoded s.descriptor (s.pixOut.map pixelOfWord))
  | .error => s.err.map .failed
  | .idle => none
  | .header => none
  | .body => none
  | .trailer => none

/-- `n` steps lead from `s` to `t`. -/
def runsTo (n : Nat) (s t : State) : Prop := Host.Core.run Sys2Proof.core n s = .next t

/-- The host presents START for an encode pass of these pixels, and no command after it. -/
def State.offerEncode (s : State) (d : Descriptor) (pixels : List Pixel) : State :=
  { s with cmdIn := [some (.startEncode d)], pixIn := pixels.map wordOfPixel }

/-- The host presents START for a decode pass of these bytes, and no command after it. -/
def State.offerDecode (s : State) (bytes : List Byte) : State :=
  { s with cmdIn := [some .startDecode], byteIn := bytes }

/-- The number of pixels a descriptor declares, as an exact product (`10_state.md` R19). -/
def Descriptor.pixelCount (d : Descriptor) : Nat := d.width.toNat * d.height.toNat

/-- A descriptor with legal values (`30_encoding.md` R57). -/
def Descriptor.legal (d : Descriptor) : Bool := legalDescriptor d.width d.height d.channels d.colorspace

/-- The pass stands between its header step and its end. -/
def State.inPass (s : State) : Prop := s.phase = .body ∨ s.phase = .trailer

/-- The invariant of CORE. The letters are those of `10_state.md` R25. -/
structure State.Inv (s : State) : Prop where
  /-- ERR is nonzero exactly in ERROR (R18) -/
  errIff : s.phase = .error ↔ s.err ≠ none
  /-- (e) a slot holds the default pixel or a pixel of its own hash -/
  slots : ∀ j : Slot, s.slot j = Config.defaultPixel ∨ pixelHash (s.slot j) = j
  /-- in HEADER the running state is as START left it (R22) -/
  fresh : s.phase = .header →
    s.prev = Config.defaultPixel ∧ (∀ j : Slot, s.slot j = Config.defaultPixel) ∧ s.run = 0 ∧ s.pcnt = 0 ∧
      s.bpos = 0 ∧ s.byteOut = [] ∧ s.pixOut = []
  /-- after the header step the descriptor is legal (R19) -/
  legal : s.inPass → s.descriptor.legal = true
  /-- (b) in BODY pixels are missing -/
  missing : s.phase = .body → s.pcnt.toNat < s.npix.toNat
  /-- (b) in TRAILER and DONE none is -/
  complete : s.phase = .trailer ∨ s.phase = .done → s.pcnt = s.npix
  /-- (a) the run counter at a step boundary -/
  runBound : s.inPass → s.run.toNat ≤ 61
  /-- (a) the decoder has no pending run -/
  decodeRun : s.inPass → s.mode = .decode → s.run = 0
  /-- (c) the pixels counted have been taken, and the last RUN of them equal PREV -/
  pendingRun : s.inPass → s.mode = .encode →
    s.pcnt.toNat ≤ s.pixIn.length ∧ s.run.toNat ≤ s.pcnt.toNat ∧
      ∀ k, s.pcnt.toNat - s.run.toNat ≤ k → k < s.pcnt.toNat → (s.pixIn[k]?).map pixelOfWord = some s.prev
  /-- (d) the final pixel has flushed the run -/
  trailerRun : s.phase = .trailer → s.run = 0
  /-- (f) the encoder's previous pixel is in its own slot -/
  ownSlot : s.inPass → s.mode = .encode → s.slot (pixelHash s.prev) = s.prev
  /-- the decoder has put as many pixels as PCNT says (R13) -/
  putCount : s.inPass ∨ s.phase = .done → s.mode = .decode → s.pixOut.length = s.pcnt.toNat
  /-- the decoder stands after the header and not past the end of its stream (R14) -/
  position : s.inPass → s.mode = .decode → 14 ≤ s.bpos ∧ s.bpos ≤ s.len

/-- A decoder `d` stands where the encoder `e` will have brought it once its pending run is flushed: same caches, PREV and
descriptor (`40_color_cache.md` R79), the pixels before the pending run put, and only `unread` left of its stream. -/
structure Mirrors (e d : State) (unread : List Byte) : Prop where
  modes : e.mode = .encode ∧ d.mode = .decode
  phases : e.inPass ∧ d.phase = e.phase
  quiet : e.cmdIn = [] ∧ d.cmdIn = []
  caches : d.cache = e.cache
  prevs : d.prev = e.prev
  descriptors : d.descriptor = e.descriptor
  counts : d.pcnt.toNat + e.run.toNat = e.pcnt.toNat
  pixels : d.pixOut = e.pixIn.take d.pcnt.toNat
  stream : d.unread d.bpos = unread

/-- Everything a decoder chunk step leaves alone: all of State but CACHE, PREV, PCNT, PIX_OUT, BPOS, PHASE and ERR. -/
structure ChunkFrame (s t : State) : Prop where
  run : t.run = s.run
  width : t.width = s.width
  height : t.height = s.height
  channels : t.channels = s.channels
  colorspace : t.colorspace = s.colorspace
  mode : t.mode = s.mode
  byteIn : t.byteIn = s.byteIn
  pixIn : t.pixIn = s.pixIn
  byteOut : t.byteOut = s.byteOut
  cmdIn : t.cmdIn = s.cmdIn
  params : t.params = s.params
  draws : t.draws = s.draws

/-- What every one-pixel chunk of `n` bytes does with its pixel besides the cache: it is put, becomes PREV and is
counted, the bytes are passed, and the step that completes the image goes to TRAILER (`43_chunk_decoder.md` R142). -/
structure YieldsPixel (s t : State) (px : Pixel) (n : Nat) : Prop where
  put : t.pixOut = s.pixOut ++ [wordOfPixel px]
  prev : t.prev = px
  pcnt : t.pcnt = s.pcnt + 1
  bpos : t.bpos = s.bpos + n
  phase : t.phase = if s.pcnt + 1 = s.npix then .trailer else .body
  err : t.err = s.err
  frame : ChunkFrame s t

/-- The cache after a store of a pixel: its own slot holds it, the 63 others are as before (`40_color_cache.md` R73). -/
def StoresPixel (s t : State) (px : Pixel) : Prop :=
  t.slot (pixelHash px) = px ∧ ∀ j, j ≠ pixelHash px → t.slot j = s.slot j

/-- A command is a START. -/
def Command.isStart : Command → Bool
  | .startEncode _ => true
  | .startDecode => true
  | .abort => false

/-- The host presents START at this boundary. -/
def State.startOffered (s : State) : Prop := ∃ c, s.offered = some c ∧ c.isStart = true

/-- Everything an encoder step leaves alone, but for the command schedule: all of State but CACHE, PREV, RUN, PCNT,
BYTE_OUT, PHASE and ERR. -/
structure EncoderFrame (s t : State) : Prop where
  width : t.width = s.width
  height : t.height = s.height
  channels : t.channels = s.channels
  colorspace : t.colorspace = s.colorspace
  mode : t.mode = s.mode
  bpos : t.bpos = s.bpos
  byteIn : t.byteIn = s.byteIn
  pixIn : t.pixIn = s.pixIn
  pixOut : t.pixOut = s.pixOut
  params : t.params = s.params
  draws : t.draws = s.draws

end Sys2Proof.Machine
end

