-- ==== Sys2Proof/Certificates/Slice0/Obligations.lean ====
section
/-! DEFINITION. The statements for the provers, from the numbered rules of the spec. -/

open Sys2Proof Sys2Proof.Machine

/-! ### Encodings -/

/-- Decoding the bytes of a record gives the record back and leaves the bytes after it, for every record with its
operands in range (`42_byte_packer_unpacker.md` R130, which the spec marks as derived). -/
def Obligations.DecodeOfEncodedRecord : Prop :=
  ∀ (i : Instr) (rest : List Byte), i.wellFormed = true → decodeAt i.place (encode i ++ rest) = .ok (i, rest)

/-- Bytes that decode are the bytes of the record they decode to: no bit is dropped and no record has two encodings
(R130, derived in the spec). -/
def Obligations.EncodeOfDecodedBytes : Prop :=
  ∀ (p : Place) (bs : List Byte) (i : Instr) (rest : List Byte), decodeAt p bs = .ok (i, rest) →
    i.wellFormed = true ∧ i.place = p ∧ encode i ++ rest = bs

/-- The kind of a chunk is decided by its first byte, and its fields are those of the unpacker (`30_encoding.md` R51,
`42_byte_packer_unpacker.md` R123 to R128). -/
def Obligations.FirstByteSelectsTheChunk : Prop :=
  ∀ (t x1 x2 x3 x4 : Byte) (rest : List Byte),
    decodeChunk (t :: x1 :: x2 :: x3 :: x4 :: rest) = .ok (
      if t.toNat = 255 then (.rgba x1 x2 x3 x4, rest)
      else if t.toNat = 254 then (.rgb x1 x2 x3, x4 :: rest)
      else if t.toNat / 64 = 3 then (.run (t.toNat % 64 + 1), x1 :: x2 :: x3 :: x4 :: rest)
      else if t.toNat / 64 = 0 then (.index (Fin.ofNat 64 (t.toNat % 64)), x1 :: x2 :: x3 :: x4 :: rest)
      else if t.toNat / 64 = 1 then
        (.diff (((t.toNat / 16 % 4 : Nat) : Int) - 2) (((t.toNat / 4 % 4 : Nat) : Int) - 2)
          (((t.toNat % 4 : Nat) : Int) - 2), x1 :: x2 :: x3 :: x4 :: rest)
      else
        (.luma (((t.toNat % 64 : Nat) : Int) - 32) (((x1.toNat / 16 : Nat) : Int) - 8)
          (((x1.toNat % 16 : Nat) : Int) - 8), x2 :: x3 :: x4 :: rest))

/-- The bytes of every record as the packer's functions give them (`42_byte_packer_unpacker.md` R111 to R118). -/
def Obligations.PackedBytesOfEveryRecord : Prop :=
  (∀ (magic w h : Word) (c s : Byte), (encode (.header magic w h c s)).map BitVec.toNat =
    [magic.toNat / 2 ^ 24, magic.toNat / 2 ^ 16 % 256, magic.toNat / 2 ^ 8 % 256, magic.toNat % 256,
     w.toNat / 2 ^ 24, w.toNat / 2 ^ 16 % 256, w.toNat / 2 ^ 8 % 256, w.toNat % 256,
     h.toNat / 2 ^ 24, h.toNat / 2 ^ 16 % 256, h.toNat / 2 ^ 8 % 256, h.toNat % 256, c.toNat, s.toNat]) ∧
  (∀ len : Nat, 1 ≤ len → len ≤ 62 → (encode (.run len)).map BitVec.toNat = [0xC0 + (len - 1)]) ∧
  (∀ j : Slot, (encode (.index j)).map BitVec.toNat = [j.val]) ∧
  (∀ dr dg db : Int, -2 ≤ dr → dr ≤ 1 → -2 ≤ dg → dg ≤ 1 → -2 ≤ db → db ≤ 1 →
    (encode (.diff dr dg db)).map (fun b => (b.toNat : Int)) =
      [0x40 + (dr + 2) * 16 + (dg + 2) * 4 + (db + 2)]) ∧
  (∀ dg drg dbg : Int, -32 ≤ dg → dg ≤ 31 → -8 ≤ drg → drg ≤ 7 → -8 ≤ dbg → dbg ≤ 7 →
    (encode (.luma dg drg dbg)).map (fun b => (b.toNat : Int)) =
      [0x80 + (dg + 32), (drg + 8) * 16 + (dbg + 8)]) ∧
  (∀ r g b : Byte, (encode (.rgb r g b)).map BitVec.toNat = [0xFE, r.toNat, g.toNat, b.toNat]) ∧
  (∀ r g b a : Byte, (encode (.rgba r g b a)).map BitVec.toNat = [0xFF, r.toNat, g.toNat, b.toNat, a.toNat]) ∧
  (encode .endMark).map BitVec.toNat = [0, 0, 0, 0, 0, 0, 0, 1]

/-- The packer refuses exactly the operands outside their ranges, and never truncates a field (R131, 93 U6; the form
of the refusal is the model's, log 9). -/
def Obligations.PackerRefusesOutOfRange : Prop :=
  (∀ len : Nat, pack (.run len) = none ↔ ¬(1 ≤ len ∧ len ≤ 62)) ∧
  (∀ dr dg db : Int, pack (.diff dr dg db) = none ↔
    ¬((-2 ≤ dr ∧ dr ≤ 1) ∧ (-2 ≤ dg ∧ dg ≤ 1) ∧ (-2 ≤ db ∧ db ≤ 1))) ∧
  (∀ dg drg dbg : Int, pack (.luma dg drg dbg) = none ↔
    ¬((-32 ≤ dg ∧ dg ≤ 31) ∧ (-8 ≤ drg ∧ drg ≤ 7) ∧ (-8 ≤ dbg ∧ dbg ≤ 7))) ∧
  (∀ i : Instr, i.wellFormed = true → pack i = some (encode i))

/-- Byte sequences written out from the layouts decode to the record they stand for (`95_test_vectors.md` B4). -/
def Obligations.WrittenBytesDecode : Prop :=
  decodeAt .chunk [0xC6] = .ok (.run 7, []) ∧
  decodeAt .chunk [0x36] = .ok (.index 54, []) ∧
  decodeAt .chunk [0x4B] = .ok (.diff (-2) 0 1, []) ∧
  decodeAt .chunk [0xA0, 0x83] = .ok (.luma 0 0 (-5), []) ∧
  decodeAt .chunk [0xFE, 0xFF, 0xFE, 0xFD] = .ok (.rgb 255 254 253, []) ∧
  decodeAt .chunk [0xFF, 1, 2, 3, 4] = .ok (.rgba 1 2 3 4, []) ∧
  decodeAt .header [0x71, 0x6F, 0x69, 0x66, 0, 0, 1, 0, 0, 1, 0, 0, 4, 0] =
    .ok (.header 0x716F6966 256 65536 4 0, []) ∧
  decodeAt .trailer [0, 0, 0, 0, 0, 0, 0, 1] = .ok (.endMark, [])

/-! ### The decoder: fetching -/

/-- A step runs the decoded record: in a decode pass, with no command at the boundary, the step is the meaning of the
record that the unread bytes decode to, on the state whose command schedule has moved on by one boundary. -/
def Obligations.StepRunsTheDecodedRecord : Prop :=
  ∀ (s : State) (p : Place) (i : Instr) (rest : List Byte),
    s.offered = none → s.mode = .decode → s.phase = placePhase p →
    decodeAt p (s.unread (if p = .header then 0 else s.bpos)) = .ok (i, rest) →
    step s = exec i { s with cmdIn := s.cmdIn.tail }

/-- A chunk step that finds no byte, or fewer bytes than the chunk's layout requires, raises TruncatedStream, and with
all of them present it executes the chunk (`42_byte_packer_unpacker.md` R122). -/
def Obligations.CutShortChunkRaises : Prop :=
  ∀ s : State, s.offered = none → s.mode = .decode → s.phase = .body →
    (s.len ≤ s.bpos →
      step s = .next { s with cmdIn := s.cmdIn.tail, phase := .error, err := some .truncatedStream }) ∧
    (∀ (t : Byte) (n : Nat), s.byteIn[s.bpos]? = some t →
      n = (if t = 0xFF then 5 else if t = 0xFE then 4 else if t.toNat / 64 = 2 then 2 else 1) →
      (s.len < s.bpos + n →
        step s = .next { s with cmdIn := s.cmdIn.tail, phase := .error, err := some .truncatedStream }) ∧
      (s.bpos + n ≤ s.len → ∃ i rest, decodeChunk (s.unread s.bpos) = .ok (i, rest) ∧ i.length = n ∧
        step s = exec i { s with cmdIn := s.cmdIn.tail }))

/-- A stream shorter than the header raises the parameter's kind, and in TRAILER anything but the marker, or under
STRICT_EOS anything after it, raises MissingEndMarker (R121, R129; the kinds are the spec's decisions D9, D11, D12). -/
def Obligations.CutShortFrameRaises : Prop :=
  ∀ s : State, s.offered = none → s.mode = .decode →
    (s.phase = .header → s.len < 14 →
      step s = .next { s with cmdIn := s.cmdIn.tail, phase := .error, err := some s.params.shortHeaderErr }) ∧
    (s.phase = .trailer → (s.unread s.bpos).take 8 ≠ [0, 0, 0, 0, 0, 0, 0, 1] →
      step s = .next { s with cmdIn := s.cmdIn.tail, phase := .error, err := some .missingEndMarker }) ∧
    (s.phase = .trailer → s.params.strictEos = true → s.bpos + 8 < s.len →
      step s = .next { s with cmdIn := s.cmdIn.tail, phase := .error, err := some .missingEndMarker })

/-! ### The decoder: what each record does -/

/-- RUN puts the previous pixel `len` times, counts them, passes one byte and touches neither CACHE nor PREV, whenever
the declared number of pixels has room for it (R143; one step for the whole run is the spec's decision D19). -/
def Obligations.RunRepeatsThePreviousPixel : Prop :=
  ∀ (s : State) (len : Nat), s.mode = .decode → s.phase = .body → 1 ≤ len → len ≤ 62 →
    s.pcnt.toNat + len ≤ s.npix.toNat →
    ∃ t, exec (.run len) s = .next t ∧
      t.pixOut = s.pixOut ++ List.replicate len (wordOfPixel s.prev) ∧
      t.pcnt.toNat = s.pcnt.toNat + len ∧ t.cache = s.cache ∧ t.prev = s.prev ∧ t.bpos = s.bpos + 1 ∧
      t.phase = (if s.pcnt.toNat + len = s.npix.toNat then .trailer else .body) ∧ t.err = s.err ∧ ChunkFrame s t

/-- A RUN that would pass the declared number of pixels raises PixelCountMismatch and puts none (R143; the kind is the
spec's decision D10). -/
def Obligations.RunPastTheImageRaises : Prop :=
  ∀ (s : State) (len : Nat), s.mode = .decode → s.phase = .body → 1 ≤ len → len ≤ 62 →
    s.npix.toNat < s.pcnt.toNat + len →
    exec (.run len) s = .next { s with phase := .error, err := some .pixelCountMismatch }

/-- INDEX yields the pixel of its slot and does not store (`43_chunk_decoder.md` R144). -/
def Obligations.IndexYieldsItsSlot : Prop :=
  ∀ (s : State) (j : Slot), s.mode = .decode → s.phase = .body →
    ∃ t, exec (.index j) s = .next t ∧ YieldsPixel s t (s.slot j) 1 ∧ t.cache = s.cache

/-- DIFF adds its deltas to PREV modulo 256, keeps alpha, stores and yields the pixel (R145). -/
def Obligations.DiffAddsItsDeltas : Prop :=
  ∀ (s : State) (dr dg db : Int), s.mode = .decode → s.phase = .body →
    -2 ≤ dr → dr ≤ 1 → -2 ≤ dg → dg ≤ 1 → -2 ≤ db → db ≤ 1 →
    ∃ t px, exec (.diff dr dg db) s = .next t ∧
      (px.r.toNat : Int) = (s.prev.r.toNat + dr) % 256 ∧ (px.g.toNat : Int) = (s.prev.g.toNat + dg) % 256 ∧
      (px.b.toNat : Int) = (s.prev.b.toNat + db) % 256 ∧ px.a = s.prev.a ∧
      StoresPixel s t px ∧ YieldsPixel s t px 1

/-- LUMA adds the green delta, and the two deltas relative to it, to PREV modulo 256, keeps alpha, stores and yields the
pixel (R146). -/
def Obligations.LumaAddsItsDeltas : Prop :=
  ∀ (s : State) (dg drg dbg : Int), s.mode = .decode → s.phase = .body →
    -32 ≤ dg → dg ≤ 31 → -8 ≤ drg → drg ≤ 7 → -8 ≤ dbg → dbg ≤ 7 →
    ∃ t px, exec (.luma dg drg dbg) s = .next t ∧
      (px.r.toNat : Int) = (s.prev.r.toNat + dg + drg) % 256 ∧ (px.g.toNat : Int) = (s.prev.g.toNat + dg) % 256 ∧
      (px.b.toNat : Int) = (s.prev.b.toNat + dg + dbg) % 256 ∧ px.a = s.prev.a ∧
      StoresPixel s t px ∧ YieldsPixel s t px 2

/-- RGB yields and stores its three channels with the alpha of PREV (R147). -/
def Obligations.RgbKeepsAlpha : Prop :=
  ∀ (s : State) (r g b : Byte), s.mode = .decode → s.phase = .body →
    ∃ t, exec (.rgb r g b) s = .next t ∧ StoresPixel s t ⟨r, g, b, s.prev.a⟩ ∧ YieldsPixel s t ⟨r, g, b, s.prev.a⟩ 4

/-- RGBA yields and stores its four channels (R148). -/
def Obligations.RgbaReplacesThePixel : Prop :=
  ∀ (s : State) (r g b a : Byte), s.mode = .decode → s.phase = .body →
    ∃ t, exec (.rgba r g b a) s = .next t ∧ StoresPixel s t ⟨r, g, b, a⟩ ∧ YieldsPixel s t ⟨r, g, b, a⟩ 5

/-- A legal HEADER writes the descriptor registers, sets the position to 14 and opens the chunk phase (R152). -/
def Obligations.HeaderWritesTheDescriptor : Prop :=
  ∀ (s : State) (w h : Word) (c cs : Byte), s.mode = .decode → s.phase = .header →
    w ≠ 0 → h ≠ 0 → c = 3 ∨ c = 4 → cs = 0 ∨ cs = 1 →
    exec (.header s.params.magic w h c cs) s =
      .next { s with width := w, height := h, channels := c, colorspace := cs, bpos := 14, phase := .body }

/-- A HEADER with another magic or an illegal field raises MalformedHeader and writes no descriptor register (R121, R161,
with the error entry of R165, the spec's decision D26). -/
def Obligations.IllegalHeaderRaises : Prop :=
  ∀ (s : State) (magic w h : Word) (c cs : Byte), s.mode = .decode → s.phase = .header →
    magic ≠ s.params.magic ∨ w = 0 ∨ h = 0 ∨ (c ≠ 3 ∧ c ≠ 4) ∨ (cs ≠ 0 ∧ cs ≠ 1) →
    exec (.header magic w h c cs) s = .next { s with phase := .error, err := some .malformedHeader }

/-- END passes its eight bytes and finishes the pass, when nothing follows it or STRICT_EOS is off (R153). -/
def Obligations.EndFinishesThePass : Prop :=
  ∀ s : State, s.mode = .decode → s.phase = .trailer → s.params.strictEos = false ∨ s.len ≤ s.bpos + 8 →
    exec .endMark s = .next { s with bpos := s.bpos + 8, phase := .done }

/-- A meaning stops only outside the mode and phase that enable its record, or for a term that is no record; everywhere
else it goes on (R142, R152, R153; the two stops are the model's, logs 8 and 9). -/
def Obligations.MeaningStopsOnlyWhereNotEnabled : Prop :=
  ∀ (i : Instr) (s : State),
    (i.wellFormed = false → exec i s = .refused .operandOutOfRange) ∧
    (i.wellFormed = true → ¬(s.mode = .decode ∧
        ((i.place = .header ∧ s.phase = .header) ∨ (i.place = .chunk ∧ s.phase = .body) ∨
          (i.place = .trailer ∧ s.phase = .trailer))) → exec i s = .fault .stepNotEnabled) ∧
    (i.wellFormed = true → s.mode = .decode →
        ((i.place = .header ∧ s.phase = .header) ∨ (i.place = .chunk ∧ s.phase = .body) ∨
          (i.place = .trailer ∧ s.phase = .trailer)) → ∃ t, exec i s = .next t)

/-! ### Frames -/

/-- Frame of the storing chunks DIFF, LUMA, RGB and RGBA: PREV, PCNT, BPOS and PHASE change, one pixel is put, one slot is
written, and nothing else in State differs (R141, R145 to R148). -/
def Obligations.StoringChunkFrame : Prop :=
  ∀ (i : Instr) (s t : State),
    ((∃ dr dg db, i = .diff dr dg db) ∨ (∃ dg drg dbg, i = .luma dg drg dbg) ∨ (∃ r g b, i = .rgb r g b) ∨
      (∃ r g b a, i = .rgba r g b a)) →
    exec i s = .next t →
    ChunkFrame s t ∧ t.err = s.err ∧ (∀ j, j ≠ pixelHash t.prev → t.slot j = s.slot j) ∧
      t.pixOut = s.pixOut ++ [wordOfPixel t.prev]

/-- Frame of the chunks that do not store, RUN and INDEX: no slot of the cache changes, RUN leaves PREV alone, INDEX does not
raise, and a RUN that raises changes PHASE and ERR only (R141, R143, R144). -/
def Obligations.RepeatChunkFrame : Prop :=
  ∀ (s t : State),
    (∀ len, exec (.run len) s = .next t → ChunkFrame s t ∧ t.cache = s.cache ∧ t.prev = s.prev ∧
      (t.phase = .error → t.pcnt = s.pcnt ∧ t.bpos = s.bpos ∧ t.pixOut = s.pixOut) ∧
      (t.phase ≠ .error → t.err = s.err)) ∧
    (∀ j, exec (.index j) s = .next t → ChunkFrame s t ∧ t.cache = s.cache ∧ t.err = s.err ∧
      t.pixOut = s.pixOut ++ [wordOfPixel t.prev])

/-- Frame of HEADER and END: the cache, PREV, RUN, PCNT and every stream are untouched, and END leaves the descriptor
registers alone as well (R152, R153). -/
def Obligations.FramingRecordFrame : Prop :=
  ∀ (i : Instr) (s t : State), ((∃ m w h c cs, i = .header m w h c cs) ∨ i = .endMark) → exec i s = .next t →
    t.cache = s.cache ∧ t.prev = s.prev ∧ t.run = s.run ∧ t.pcnt = s.pcnt ∧ t.mode = s.mode ∧
      t.byteIn = s.byteIn ∧ t.pixIn = s.pixIn ∧ t.byteOut = s.byteOut ∧ t.pixOut = s.pixOut ∧
      t.cmdIn = s.cmdIn ∧ t.params = s.params ∧ t.draws = s.draws ∧
      (t.phase ≠ .error → t.err = s.err) ∧ (t.phase = .error → t.bpos = s.bpos ∧ t.descriptor = s.descriptor) ∧
      (i = .endMark → t.descriptor = s.descriptor)

/-- Frame of an encoder step: it appends to BYTE_OUT, the framing steps leave the running state alone, and the pixel step
writes no slot but that of its pixel (`41_chunk_encoder.md` R85, R101, R102). -/
def Obligations.EncoderStepFrame : Prop :=
  ∀ s t : State, s.offered = none → s.mode = .encode → s.phase.active = true → step s = .next t →
    EncoderFrame s t ∧ t.cmdIn = s.cmdIn.tail ∧ (∃ bs, t.byteOut = s.byteOut ++ bs) ∧
      (t.phase ≠ .error → t.err = s.err) ∧
      (s.phase ≠ .body → t.cache = s.cache ∧ t.prev = s.prev ∧ t.run = s.run ∧ t.pcnt = s.pcnt) ∧
      (∀ px, s.nextPixel = some px → ∀ j, j ≠ pixelHash px → t.slot j = s.slot j)

/-! ### The whole machine -/

/-- Error entry: a step that enters ERROR writes PHASE and ERR and nothing else (R165; that a failing step leaves no partial
write is the spec's decision D26). -/
def Obligations.ErrorEntryWritesPhaseAndErrOnly : Prop :=
  ∀ s t : State, step s = .next t → s.phase ≠ .error → t.phase = .error →
    ∃ k, t = { s with cmdIn := s.cmdIn.tail, phase := .error, err := some k }

/-- In ERROR (`60_exceptions.md` R168), and likewise in DONE and IDLE (`10_state.md` R17, `70_reset_and_hazards.md` R191), START
begins a pass from the reset state with ERR cleared (R190), and nothing else changes anything: an ABORT has no effect there (R169,
the spec's decision D16), and that a step without a command is a wait is the model's choice (log 6), the spec enabling none. -/
def Obligations.OnlyStartLeavesAnInactivePhase : Prop :=
  ∀ s t : State, step s = .next t → s.phase.active = false →
    (s.startOffered → t.phase = .header ∧ t.err = none ∧ (∀ j, t.slot j = ⟨0, 0, 0, 255⟩) ∧ t.prev = ⟨0, 0, 0, 255⟩ ∧
      t.run = 0 ∧ t.pcnt = 0 ∧ t.bpos = 0 ∧ t.olen = 0) ∧
    (¬ s.startOffered → t = { s with cmdIn := s.cmdIn.tail })

/-- MODE is written only by START (`10_state.md` R16; the register is the spec's decision D2). That an ABORT keeps it is the model's
choice (log 11). -/
def Obligations.ModeChangesOnlyByStart : Prop :=
  ∀ s t : State, step s = .next t → t.mode ≠ s.mode → s.startOffered

/-- The descriptor registers change only by START and by the decoder's header step (R19). That an ABORT keeps them is the model's choice
(log 11). -/
def Obligations.DescriptorChangesOnlyAtTheStart : Prop :=
  ∀ s t : State, step s = .next t → t.descriptor ≠ s.descriptor →
    s.startOffered ∨ (s.mode = .decode ∧ s.phase = .header ∧ t.phase = .body)

/-- No step writes an input stream or a parameter, and without START the output streams only grow at their end: an encode
pass never puts a pixel and a decode pass never a byte (`20_memory.md` R44, the spec's decision D23). That an ABORT keeps the streams
and RUN is the model's choice (log 11). -/
def Obligations.StreamsFlowOneWay : Prop :=
  ∀ s t : State, step s = .next t →
    t.byteIn = s.byteIn ∧ t.pixIn = s.pixIn ∧ t.params = s.params ∧
      (¬ s.startOffered →
        (∃ bs, t.byteOut = s.byteOut ++ bs) ∧ (∃ ws, t.pixOut = s.pixOut ++ ws) ∧
        (s.mode = .encode → t.pixOut = s.pixOut) ∧ (s.mode = .decode → t.byteOut = s.byteOut ∧ t.run = s.run))

/-- The phases follow one another as the spec's table of transitions says (R17, the spec's decision D6); a command ABORT is the
only way from an active phase to IDLE. -/
def Obligations.PhasesFollowTheSequence : Prop :=
  ∀ s t : State, step s = .next t → t.phase ≠ s.phase →
    (s.phase.active = false ∧ t.phase = .header ∧ s.startOffered) ∨
    (s.phase = .header ∧ t.phase = .body) ∨ (s.phase = .body ∧ t.phase = .trailer ∧ t.pcnt = t.npix) ∨
    (s.phase = .trailer ∧ t.phase = .done) ∨ (s.phase.active = true ∧ t.phase = .error) ∨
    (s.phase.active = true ∧ t.phase = .idle ∧ s.offered = some .abort)

/-- Without START neither position moves back, and PCNT does not wrap (R13, R14), in every state that meets the invariant. That they
stand still under an ABORT is the model's choice (log 11). -/
def Obligations.PositionsNeverMoveBack : Prop :=
  ∀ s t : State, s.Inv → step s = .next t → ¬ s.startOffered →
    s.bpos ≤ t.bpos ∧ s.pcnt.toNat ≤ t.pcnt.toNat ∧ t.pcnt.toNat ≤ s.pcnt.toNat + 62

/-- The invariant holds at power-on. PHASE = IDLE and ERR = 0 are the spec's (`10_state.md` R22); the slots clause rests on the
cache contents at power-on, which R22 leaves unspecified: they are the model's choice (log 1). -/
def Obligations.InvariantAtPowerOn : Prop := State.reset.Inv

/-- Every step keeps the invariant: ERR names an error exactly in ERROR, slots hold the default pixel or a pixel of their hash,
the counters agree with the phase, a pending run stands for equal pixels, the encoder's PREV is in its slot (`10_state.md` R25,
derived in the spec). That the registers an ABORT leaves dead keep their values is the model's choice (log 11), that a step with no
pass active waits is log 6. -/
def Obligations.EveryStepKeepsTheInvariant : Prop :=
  ∀ s t : State, s.Inv → step s = .next t → t.Inv

/-- In a state that meets the invariant a step always goes on, except that a START during a pass is refused (R131, R171, R175).
Two clauses are the model's choice: the refusal (log 7), and that in IDLE, DONE and ERROR a step without a command goes on at all, the
spec enabling none there (log 6). -/
def Obligations.InvariantStatesNeverStop : Prop :=
  ∀ s : State, s.Inv → (¬(s.phase.active = true ∧ s.startOffered) → ∃ t, step s = .next t) ∧
    (s.phase.active = true → s.startOffered → step s = .refused .startDuringPass)

/-- Every pass of finite input ends in DONE or ERROR after at most one header step, NPIX body steps and one trailer step (R200,
derived in the spec). -/
def Obligations.EveryPassEnds : Prop :=
  ∀ s : State, s.Inv → s.phase.active = true → s.cmdIn = [] →
    ∃ n t, runsTo n s t ∧ n ≤ t.npix.toNat + 2 ∧ (t.phase = .done ∨ t.phase = .error)

/-! ### Commands -/

/-- START resets the running state, takes the mode, and in ENCODE mode the descriptor; power-on leaves PHASE = IDLE and
ERR = 0 (`70_reset_and_hazards.md` R190). -/
def Obligations.StartResetsThePass : Prop :=
  (State.reset.phase = .idle ∧ State.reset.err = none) ∧
  ∀ (s : State) (c : Command), s.phase.active = false → s.offered = some c → c ≠ .abort →
    ∃ t, step s = .next t ∧ (∀ j, t.slot j = ⟨0, 0, 0, 255⟩) ∧ t.prev = ⟨0, 0, 0, 255⟩ ∧ t.run = 0 ∧ t.pcnt = 0 ∧
      t.err = none ∧ t.bpos = 0 ∧ t.olen = 0 ∧ t.phase = .header ∧
      (∀ d, c = .startEncode d → t.mode = .encode ∧ t.descriptor = d) ∧ (c = .startDecode → t.mode = .decode) ∧
      t.byteIn = s.byteIn ∧ t.pixIn = s.pixIn ∧ t.params = s.params

/-- START while a pass is active is refused (R171, the spec's decision D27; the model stops, log 7). -/
def Obligations.StartDuringAPassIsRefused : Prop :=
  ∀ (s : State) (c : Command), s.phase.active = true → s.offered = some c → c ≠ .abort →
    step s = .refused .startDuringPass

/-- ABORT takes an active pass to IDLE with ERR kept; in IDLE, DONE and ERROR it does nothing (R169, the spec's decision D16). That
ABORT writes PHASE only, so that every other register keeps its value, is the model's choice (log 11): R169 calls that state dead. -/
def Obligations.AbortEndsThePass : Prop :=
  ∀ s : State, s.offered = some .abort →
    (s.phase.active = true → step s = .next { s with cmdIn := s.cmdIn.tail, phase := .idle }) ∧
    (s.phase.active = false → step s = .next { s with cmdIn := s.cmdIn.tail })

/-- With no pass active and no command the state waits unchanged (R17; the model's choice, log 6). -/
def Obligations.InactiveCoreWaits : Prop :=
  ∀ s : State, s.phase.active = false → s.offered = none → step s = .next { s with cmdIn := s.cmdIn.tail }

/-! ### The colour cache -/

/-- The hash of a pixel, with the two worked examples (`40_color_cache.md` R70). -/
def Obligations.HashIsTheWeightedSum : Prop :=
  (∀ p : Pixel, (pixelHash p).val = (p.r.toNat * 3 + p.g.toNat * 5 + p.b.toNat * 7 + p.a.toNat * 11) % 64) ∧
  pixelHash ⟨0, 0, 0, 255⟩ = 53 ∧ pixelHash ⟨175, 175, 175, 255⟩ = 54

/-- The hash can be formed in wrapping 8-bit arithmetic: only the low six bits of the sum matter (R71, derived in the spec). -/
def Obligations.HashFormedInEightBits : Prop :=
  ∀ p : Pixel, (pixelHash p).val = (p.r * 3 + p.g * 5 + p.b * 7 + p.a * 11).toNat % 64

/-- `store` replaces the whole slot of the pixel, and nothing else in State (R73). -/
def Obligations.StoreReplacesItsSlot : Prop :=
  ∀ (s : State) (p : Pixel),
    (s.store p).slot (pixelHash p) = p ∧ (∀ j, j ≠ pixelHash p → (s.store p).slot j = s.slot j) ∧
    ({ s.store p with cache := s.cache } = s)

/-- `lookup` compares the pixel with its slot; right after START it answers to the default pixel only (R72). -/
def Obligations.LookupComparesItsSlot : Prop :=
  (∀ (s : State) (p : Pixel), s.lookup p = true ↔ s.slot (pixelHash p) = p) ∧
  ∀ (s t : State) (p : Pixel), s.startOffered → step s = .next t → (t.lookup p = true ↔ p = ⟨0, 0, 0, 255⟩)

/-- Collisions overwrite: two colours that share a bucket evict one another (`40_color_cache.md` R74). -/
def Obligations.CollisionsEvict : Prop :=
  ∀ (s : State) (p q : Pixel), p ≠ q → pixelHash p = pixelHash q →
    ((s.store p).store q).lookup p = false ∧ ((s.store p).store q).lookup q = true

/-! ### The delta unit -/

/-- The three channel deltas and the two differences from green are the wrapped 8-bit differences (`41_chunk_encoder.md` R81,
R82). -/
def Obligations.DeltasAreWrappedDifferences : Prop :=
  ∀ px prev : Pixel,
    let d := deltas px prev
    (-128 ≤ d.dr ∧ d.dr ≤ 127 ∧ (d.dr - ((px.r.toNat : Int) - prev.r.toNat)) % 256 = 0) ∧
    (-128 ≤ d.dg ∧ d.dg ≤ 127 ∧ (d.dg - ((px.g.toNat : Int) - prev.g.toNat)) % 256 = 0) ∧
    (-128 ≤ d.db ∧ d.db ≤ 127 ∧ (d.db - ((px.b.toNat : Int) - prev.b.toNat)) % 256 = 0) ∧
    (-128 ≤ d.drg ∧ d.drg ≤ 127 ∧ (d.drg - (d.dr - d.dg)) % 256 = 0) ∧
    (-128 ≤ d.dbg ∧ d.dbg ≤ 127 ∧ (d.dbg - (d.db - d.dg)) % 256 = 0)

/-- DIFF and LUMA are lossless: the decoder's pixel for the encoder's deltas is the encoder's pixel (R83 (b) and (d), derived in
the spec). -/
def Obligations.DeltasRestoreThePixel : Prop :=
  ∀ px prev : Pixel, px.a = prev.a →
    let d := deltas px prev
    diffPixel d.dr d.dg d.db prev = px ∧ (lumaOk px prev = true → lumaPixel d.dg d.drg d.dbg prev = px)

/-- The three predicates of the selector (R84, whose last sentence is derived in the spec and stands in LumaTestNeedsNoWrap). -/
def Obligations.SelectorPredicates : Prop :=
  ∀ px prev : Pixel,
    let d := deltas px prev
    (alphaSame px prev = true ↔ px.a = prev.a) ∧
    (diffOk px prev = true ↔ px.a = prev.a ∧ (-2 ≤ d.dr ∧ d.dr ≤ 1) ∧ (-2 ≤ d.dg ∧ d.dg ≤ 1) ∧ (-2 ≤ d.db ∧ d.db ≤ 1)) ∧
    (lumaOk px prev = true ↔
      px.a = prev.a ∧ (-32 ≤ d.dg ∧ d.dg ≤ 31) ∧ (-8 ≤ d.drg ∧ d.drg ≤ 7) ∧ (-8 ≤ d.dbg ∧ d.dbg ≤ 7))

/-- A pixel that fits DIFF fits LUMA, and the wrap of the differences from green never decides the LUMA test (R84, R83 (c),
derived in the spec). -/
def Obligations.LumaTestNeedsNoWrap : Prop :=
  ∀ px prev : Pixel,
    let d := deltas px prev
    (diffOk px prev = true → lumaOk px prev = true) ∧
    (-32 ≤ d.dg → d.dg ≤ 31 →
      ((-8 ≤ d.drg ∧ d.drg ≤ 7) ↔ (-8 ≤ d.dr - d.dg ∧ d.dr - d.dg ≤ 7)) ∧
      ((-8 ≤ d.dbg ∧ d.dbg ≤ 7) ↔ (-8 ≤ d.db - d.dg ∧ d.db - d.dg ≤ 7)))

/-! ### The encoder -/

/-- Rule 1: a pixel equal to PREV is counted, and the run is flushed when it reaches 62 or the pixel is the final one; CACHE and
PREV are untouched (R86). -/
def Obligations.EqualPixelContinuesTheRun : Prop :=
  ∀ s : State, s.offered = none → s.mode = .encode → s.phase = .body → s.run.toNat ≤ 61 →
    s.nextPixel = some s.prev →
    ∃ t, step s = .next t ∧
      (s.run.toNat + 1 = 62 ∨ s.pcnt = s.npix - 1 →
        t.byteOut.map BitVec.toNat = s.byteOut.map BitVec.toNat ++ [0xC0 + s.run.toNat] ∧ t.run = 0) ∧
      (¬(s.run.toNat + 1 = 62 ∨ s.pcnt = s.npix - 1) → t.byteOut = s.byteOut ∧ t.run.toNat = s.run.toNat + 1) ∧
      t.cache = s.cache ∧ t.prev = s.prev ∧ t.pcnt = s.pcnt + 1 ∧
      t.phase = (if s.pcnt + 1 = s.npix then .trailer else .body) ∧ t.err = s.err ∧ EncoderFrame s t

/-- Rules 2 to 4: a pixel that differs from PREV flushes the pending run first, then takes the first chunk that matches, INDEX,
DIFF, LUMA, RGB, RGBA; a miss is stored, a hit is not; PREV becomes the pixel (R85, R87, R89 to R93). -/
def Obligations.ChangedPixelIsCoded : Prop :=
  ∀ (s : State) (px : Pixel), s.offered = none → s.mode = .encode → s.phase = .body → s.run.toNat ≤ 61 →
    s.nextPixel = some px → px ≠ s.prev →
    ∃ t i, step s = .next t ∧
      t.byteOut = s.byteOut ++ (if s.run = 0 then [] else encode (.run s.run.toNat)) ++ encode i ∧
      (s.lookup px = true → i = .index (pixelHash px) ∧ t.cache = s.cache) ∧
      (s.lookup px = false → StoresPixel s t px ∧
        (let d := deltas px s.prev
         (diffOk px s.prev = true → i = .diff d.dr d.dg d.db) ∧
         (diffOk px s.prev = false → lumaOk px s.prev = true → i = .luma d.dg d.drg d.dbg) ∧
         (diffOk px s.prev = false → lumaOk px s.prev = false → px.a = s.prev.a → i = .rgb px.r px.g px.b) ∧
         (px.a ≠ s.prev.a → i = .rgba px.r px.g px.b px.a))) ∧
      t.run = 0 ∧ t.prev = px ∧ t.pcnt = s.pcnt + 1 ∧
      t.phase = (if s.pcnt + 1 = s.npix then .trailer else .body) ∧ t.err = s.err ∧ EncoderFrame s t

/-- A pixel step emits at most six bytes, and at least none is taken back (R96, derived in the spec). -/
def Obligations.PixelStepEmitsAtMostSixBytes : Prop :=
  ∀ s t : State, s.offered = none → s.mode = .encode → s.phase = .body → step s = .next t →
    s.olen ≤ t.olen ∧ t.olen ≤ s.olen + 6

/-- The encoder's framing steps and its length errors: the header step emits 14 bytes or raises MalformedHeader, the trailer
step emits the marker or raises PixelCountMismatch, a source that has ended in BODY raises it (R101, R102, R103, the spec's
decisions D7 and D8). -/
def Obligations.EncoderFramingSteps : Prop :=
  ∀ s : State, s.offered = none → s.mode = .encode →
    (s.phase = .header → s.descriptor.legal = true →
      step s = .next { s with
        cmdIn := s.cmdIn.tail, phase := .body
        byteOut := s.byteOut ++ encode (.header s.params.magic s.width s.height s.channels s.colorspace) }) ∧
    (s.phase = .header → s.descriptor.legal = false →
      step s = .next { s with cmdIn := s.cmdIn.tail, phase := .error, err := some .malformedHeader }) ∧
    (s.phase = .trailer → s.pixIn.length ≤ s.pcnt.toNat →
      step s = .next { s with
        cmdIn := s.cmdIn.tail, phase := .done, byteOut := s.byteOut ++ [0, 0, 0, 0, 0, 0, 0, 1] }) ∧
    (s.phase = .trailer ∨ s.phase = .body →
      (s.phase = .trailer ↔ s.pcnt.toNat < s.pixIn.length) →
      step s = .next { s with cmdIn := s.cmdIn.tail, phase := .error, err := some .pixelCountMismatch })

/-- Run bounding: `L` pixels equal to PREV are coded as `L / 62` chunks `Run(62)`, then `Run(L mod 62)` if that is not zero, in
front of the chunk of the pixel that ends them, or at the final pixel (R97). -/
def Obligations.LongRunsAreBounded : Prop :=
  ∀ (s : State) (L : Nat), s.cmdIn = [] → s.mode = .encode → s.phase = .body → s.run = 0 →
    (∀ k, k < L → (s.pixIn[s.pcnt.toNat + k]?).map pixelOfWord = some s.prev) →
    (∀ px, s.pcnt.toNat + L < s.npix.toNat → (s.pixIn[s.pcnt.toNat + L]?).map pixelOfWord = some px → px ≠ s.prev →
      ∃ t i, runsTo (L + 1) s t ∧ (∀ len, i ≠ .run len) ∧
        t.byteOut = s.byteOut ++ List.replicate (L / 62) 0xFD ++
          (if L % 62 = 0 then [] else encode (.run (L % 62))) ++ encode i) ∧
    (0 < L → s.pcnt.toNat + L = s.npix.toNat →
      ∃ t, runsTo L s t ∧ t.phase = .trailer ∧ t.run = 0 ∧
        t.byteOut = s.byteOut ++ List.replicate (L / 62) 0xFD ++
          (if L % 62 = 0 then [] else encode (.run (L % 62))))

/-- Cache fidelity: a pixel that was coded in this pass and meets no pixel of its bucket but itself since is coded as INDEX when it
comes again, or joins the run if it equals PREV (R98). -/
def Obligations.SeenPixelIsIndexed : Prop :=
  ∀ (s t : State) (p : Pixel) (n : Nat), s.Inv → s.cmdIn = [] → s.mode = .encode → s.phase = .body →
    s.nextPixel = some p → p ≠ s.prev → runsTo (n + 1) s t →
    (∀ k q, 1 ≤ k → k ≤ n → (s.pixIn[s.pcnt.toNat + k]?).map pixelOfWord = some q → q = p ∨ pixelHash q ≠ pixelHash p) →
    t.phase = .body → t.nextPixel = some p →
    ∃ u, step t = .next u ∧
      (p ≠ t.prev → u.byteOut = t.byteOut ++ (if t.run = 0 then [] else encode (.run t.run.toNat)) ++
        encode (.index (pixelHash p))) ∧
      (p = t.prev → (u.byteOut = t.byteOut ∧ u.run.toNat = t.run.toNat + 1) ∨
        (u.byteOut = t.byteOut ++ encode (.run (t.run.toNat + 1)) ∧ u.run = 0))

/-- The port word of a pixel: `r` lowest, then `g`, `b`, `a`, and the two directions are inverse (`20_memory.md` R31, the spec's
decision D4). -/
def Obligations.PixelWordPacking : Prop :=
  (∀ p : Pixel, (wordOfPixel p).toNat =
    p.r.toNat + p.g.toNat * 2 ^ 8 + p.b.toNat * 2 ^ 16 + p.a.toNat * 2 ^ 24) ∧
  (∀ p : Pixel, pixelOfWord (wordOfPixel p) = p) ∧ (∀ w : Word, wordOfPixel (pixelOfWord w) = w)

/-! ### Passes -/

/-- The encoder and the decoder of its stream keep the same cache and PREV at matching points: after one encoder pixel step, at
most two decoder steps over the bytes it emitted bring the decoder to the encoder's state again (`40_color_cache.md` R79). -/
def Obligations.DecoderMirrorsTheEncoder : Prop :=
  ∀ (e d e' : State) (emitted rest : List Byte), e.Inv → e.phase = .body → Mirrors e d (emitted ++ rest) →
    step e = .next e' → e'.phase ≠ .error → e'.byteOut = e.byteOut ++ emitted →
    ∃ n d', n ≤ 2 ∧ runsTo n d d' ∧ Mirrors e' d' rest

/-- The encode pass as a function of its descriptor and pixels: an illegal descriptor and a wrong number of pixels end in their
error kinds, anything else in DONE with header, chunks and end marker on BYTE_OUT (R104, R37, derived in the spec). -/
def Obligations.EncodePassOutcome : Prop :=
  ∀ (s : State) (d : Descriptor) (pixels : List Pixel), s.phase.active = false →
    ∃ n t, runsTo n (s.offerEncode d pixels) t ∧
      (d.legal = false → t.result = some (.failed .malformedHeader)) ∧
      (d.legal = true → pixels.length ≠ d.pixelCount → t.result = some (.failed .pixelCountMismatch)) ∧
      (d.legal = true → pixels.length = d.pixelCount →
        ∃ chunks, t.result = some (.encoded
            (encode (.header s.params.magic d.width d.height d.channels d.colorspace) ++ chunks ++ encode .endMark)) ∧
          chunks.length ≤ 5 * d.pixelCount ∧ d.pixelCount ≤ 62 * chunks.length)

/-- The decode pass is total: every byte list ends in an image of exactly the declared number of pixels or in one error kind, the
header's errors first (R154, R167, derived in the spec). -/
def Obligations.DecodePassOutcome : Prop :=
  ∀ (s : State) (bytes : List Byte), s.phase.active = false →
    ∃ n t, runsTo n (s.offerDecode bytes) t ∧
      (bytes.length < 14 → t.result = some (.failed s.params.shortHeaderErr)) ∧
      (∀ magic w h c cs rest, decodeAt .header bytes = .ok (.header magic w h c cs, rest) →
        (magic ≠ s.params.magic ∨ legalDescriptor w h c cs = false → t.result = some (.failed .malformedHeader)) ∧
        (magic = s.params.magic → legalDescriptor w h c cs = true →
          (∃ pixels, t.result = some (.decoded ⟨w, h, c, cs⟩ pixels) ∧
            pixels.length = w.toNat * h.toNat) ∨
          t.result = some (.failed .truncatedStream) ∨ t.result = some (.failed .pixelCountMismatch) ∨
          t.result = some (.failed .missingEndMarker)))

/-- Round trip: for every legal descriptor and every pixel list of the declared length, decoding what the encoder emits gives the
descriptor and the pixels back (`43_chunk_decoder.md` R155). -/
def Obligations.DecodeOfEncodeIsThePixels : Prop :=
  ∀ (s u : State) (d : Descriptor) (pixels : List Pixel), s.phase.active = false → u.phase.active = false →
    u.params.magic = s.params.magic → d.legal = true → pixels.length = d.pixelCount →
    ∃ n t bytes m v, runsTo n (s.offerEncode d pixels) t ∧ t.result = some (.encoded bytes) ∧
      runsTo m (u.offerDecode bytes) v ∧ v.result = some (.decoded d pixels)
end

