-- ==== Sys2Proof/Laws/Decode.lean ====
section
/-! SUPPORT. Small facts of the packer and the unpacker: field bounds, operand ranges, lengths. -/

namespace Sys2Proof

/-- A field is below two to the number of its bits. -/
theorem bits_lt (b : Byte) (hi lo : Nat) : bits b hi lo < 2 ^ (hi + 1 - lo) :=
  Nat.mod_lt _ (Nat.two_pow_pos _)

@[simp] theorem inRange_iff (lo hi x : Int) : inRange lo hi x = true ↔ lo ≤ x ∧ x ≤ hi := by
  simp [inRange]

theorem wellFormed_run (len : Nat) : (Instr.run len).wellFormed = true ↔ 1 ≤ len ∧ len ≤ 62 := by
  simp [Instr.wellFormed]

theorem wellFormed_diff (dr dg db : Int) : (Instr.diff dr dg db).wellFormed = true ↔
    (-2 ≤ dr ∧ dr ≤ 1) ∧ (-2 ≤ dg ∧ dg ≤ 1) ∧ (-2 ≤ db ∧ db ≤ 1) := by
  simp only [Instr.wellFormed, Bool.and_eq_true, inRange_iff, and_assoc]

theorem wellFormed_luma (dg drg dbg : Int) : (Instr.luma dg drg dbg).wellFormed = true ↔
    (-32 ≤ dg ∧ dg ≤ 31) ∧ (-8 ≤ drg ∧ drg ≤ 7) ∧ (-8 ≤ dbg ∧ dbg ≤ 7) := by
  simp only [Instr.wellFormed, Bool.and_eq_true, inRange_iff, and_assoc]

/-- The packer answers for every record and for nothing else. -/
theorem pack_eq_some_iff (i : Instr) (bs : List Byte) :
    pack i = some bs ↔ i.wellFormed = true ∧ encode i = bs := by
  unfold pack; split <;> simp_all

theorem pack_of_wellFormed {i : Instr} (h : i.wellFormed = true) : pack i = some (encode i) := by
  simp [pack, h]

/-! ### The chunk decoder on a list whose shape is known -/

theorem decodeChunk_nil : decodeChunk [] = .error .truncatedChunk := rfl

/-- The first byte selects the kind, in the order of `30_encoding.md` R51. -/
theorem decodeChunk_cons (t : Byte) (rest : List Byte) : decodeChunk (t :: rest) =
    if t = 0xFF then decodeRgba rest
    else if t = 0xFE then decodeRgb rest
    else if bits t 7 6 = 0b11 then .ok (decodeRun t, rest)
    else if bits t 7 6 = 0b00 then .ok (decodeIndex t, rest)
    else if bits t 7 6 = 0b01 then .ok (decodeDiff t, rest)
    else decodeLuma t rest := rfl

/-- A byte whose number is known is not a byte of another number. -/
theorem byte_ne_of_toNat {a b : Byte} {n : Nat} (ha : a.toNat = n) (h : n ≠ b.toNat) : a ≠ b :=
  fun e => h (by rw [← ha, e])

/-- A field of a byte whose number is known. -/
theorem bits_of_toNat {b : Byte} {n : Nat} (h : b.toNat = n) (hi lo : Nat) :
    bits b hi lo = n / 2 ^ lo % 2 ^ (hi + 1 - lo) := by
  simp [bits, h]

/-- The magic, the dimensions: four bytes, whose assembly gives the word back. -/
theorem unbe32_be32 (w : Word) :
    unbe32 (w.extractLsb' 24 8) (w.extractLsb' 16 8) (w.extractLsb' 8 8) (w.extractLsb' 0 8) = w := by
  unfold unbe32
  ext i hi
  simp only [BitVec.getElem_append, BitVec.getElem_extractLsb']
  split
  · simp [hi]
  · split
    · simp only [show 8 + (i - 8) = i by omega]; simp [hi]
    · split
      · simp only [show 16 + (i - 8 - 8) = i by omega]; simp [hi]
      · simp only [show 24 + (i - 8 - 8 - 8) = i by omega]; simp [hi]

end Sys2Proof
end

