-- ==== Sys2Proof/Laws/State.lean ====
section
/-! SUPPORT. What each named update of State does to each field, and to the values read through fields, true by
unfolding once here. -/

namespace Sys2Proof.Machine

open Sys2Proof

variable (s : State)

section Store
variable (p : Pixel)
@[simp] theorem State.store_cache : (s.store p).cache = s.cache.set (pixelHash p) p := rfl
@[simp] theorem State.store_prev : (s.store p).prev = s.prev := rfl
@[simp] theorem State.store_run : (s.store p).run = s.run := rfl
@[simp] theorem State.store_pcnt : (s.store p).pcnt = s.pcnt := rfl
@[simp] theorem State.store_width : (s.store p).width = s.width := rfl
@[simp] theorem State.store_height : (s.store p).height = s.height := rfl
@[simp] theorem State.store_channels : (s.store p).channels = s.channels := rfl
@[simp] theorem State.store_colorspace : (s.store p).colorspace = s.colorspace := rfl
@[simp] theorem State.store_mode : (s.store p).mode = s.mode := rfl
@[simp] theorem State.store_phase : (s.store p).phase = s.phase := rfl
@[simp] theorem State.store_err : (s.store p).err = s.err := rfl
@[simp] theorem State.store_bpos : (s.store p).bpos = s.bpos := rfl
@[simp] theorem State.store_byteIn : (s.store p).byteIn = s.byteIn := rfl
@[simp] theorem State.store_pixIn : (s.store p).pixIn = s.pixIn := rfl
@[simp] theorem State.store_byteOut : (s.store p).byteOut = s.byteOut := rfl
@[simp] theorem State.store_pixOut : (s.store p).pixOut = s.pixOut := rfl
@[simp] theorem State.store_cmdIn : (s.store p).cmdIn = s.cmdIn := rfl
@[simp] theorem State.store_params : (s.store p).params = s.params := rfl
@[simp] theorem State.store_draws : (s.store p).draws = s.draws := rfl
@[simp] theorem State.npix_store : (s.store p).npix = s.npix := rfl
@[simp] theorem State.nextPixel_store : (s.store p).nextPixel = s.nextPixel := rfl
@[simp] theorem State.pixAtEnd_store : (s.store p).pixAtEnd = s.pixAtEnd := rfl
@[simp] theorem State.descriptor_store : (s.store p).descriptor = s.descriptor := rfl
@[simp] theorem State.len_store : (s.store p).len = s.len := rfl
@[simp] theorem State.unread_store (addr : Nat) : (s.store p).unread addr = s.unread addr := rfl
end Store

section Emit
variable (bs : List Byte)
@[simp] theorem State.emit_cache : (s.emit bs).cache = s.cache := rfl
@[simp] theorem State.emit_prev : (s.emit bs).prev = s.prev := rfl
@[simp] theorem State.emit_run : (s.emit bs).run = s.run := rfl
@[simp] theorem State.emit_pcnt : (s.emit bs).pcnt = s.pcnt := rfl
@[simp] theorem State.emit_width : (s.emit bs).width = s.width := rfl
@[simp] theorem State.emit_height : (s.emit bs).height = s.height := rfl
@[simp] theorem State.emit_channels : (s.emit bs).channels = s.channels := rfl
@[simp] theorem State.emit_colorspace : (s.emit bs).colorspace = s.colorspace := rfl
@[simp] theorem State.emit_mode : (s.emit bs).mode = s.mode := rfl
@[simp] theorem State.emit_phase : (s.emit bs).phase = s.phase := rfl
@[simp] theorem State.emit_err : (s.emit bs).err = s.err := rfl
@[simp] theorem State.emit_bpos : (s.emit bs).bpos = s.bpos := rfl
@[simp] theorem State.emit_byteIn : (s.emit bs).byteIn = s.byteIn := rfl
@[simp] theorem State.emit_pixIn : (s.emit bs).pixIn = s.pixIn := rfl
@[simp] theorem State.emit_byteOut : (s.emit bs).byteOut = s.byteOut ++ bs := rfl
@[simp] theorem State.emit_pixOut : (s.emit bs).pixOut = s.pixOut := rfl
@[simp] theorem State.emit_cmdIn : (s.emit bs).cmdIn = s.cmdIn := rfl
@[simp] theorem State.emit_params : (s.emit bs).params = s.params := rfl
@[simp] theorem State.emit_draws : (s.emit bs).draws = s.draws := rfl
@[simp] theorem State.npix_emit : (s.emit bs).npix = s.npix := rfl
@[simp] theorem State.nextPixel_emit : (s.emit bs).nextPixel = s.nextPixel := rfl
@[simp] theorem State.pixAtEnd_emit : (s.emit bs).pixAtEnd = s.pixAtEnd := rfl
@[simp] theorem State.descriptor_emit : (s.emit bs).descriptor = s.descriptor := rfl
@[simp] theorem State.len_emit : (s.emit bs).len = s.len := rfl
@[simp] theorem State.slot_emit (j : Slot) : (s.emit bs).slot j = s.slot j := rfl
@[simp] theorem State.lookup_emit (q : Pixel) : (s.emit bs).lookup q = s.lookup q := rfl
@[simp] theorem State.unread_emit (addr : Nat) : (s.emit bs).unread addr = s.unread addr := rfl
end Emit

section PutPixels
variable (n : Nat) (p : Pixel)
@[simp] theorem State.putPixels_cache : (s.putPixels n p).cache = s.cache := rfl
@[simp] theorem State.putPixels_prev : (s.putPixels n p).prev = s.prev := rfl
@[simp] theorem State.putPixels_run : (s.putPixels n p).run = s.run := rfl
@[simp] theorem State.putPixels_pcnt : (s.putPixels n p).pcnt = s.pcnt := rfl
@[simp] theorem State.putPixels_width : (s.putPixels n p).width = s.width := rfl
@[simp] theorem State.putPixels_height : (s.putPixels n p).height = s.height := rfl
@[simp] theorem State.putPixels_channels : (s.putPixels n p).channels = s.channels := rfl
@[simp] theorem State.putPixels_colorspace : (s.putPixels n p).colorspace = s.colorspace := rfl
@[simp] theorem State.putPixels_mode : (s.putPixels n p).mode = s.mode := rfl
@[simp] theorem State.putPixels_phase : (s.putPixels n p).phase = s.phase := rfl
@[simp] theorem State.putPixels_err : (s.putPixels n p).err = s.err := rfl
@[simp] theorem State.putPixels_bpos : (s.putPixels n p).bpos = s.bpos := rfl
@[simp] theorem State.putPixels_byteIn : (s.putPixels n p).byteIn = s.byteIn := rfl
@[simp] theorem State.putPixels_pixIn : (s.putPixels n p).pixIn = s.pixIn := rfl
@[simp] theorem State.putPixels_byteOut : (s.putPixels n p).byteOut = s.byteOut := rfl
@[simp] theorem State.putPixels_pixOut : (s.putPixels n p).pixOut = s.pixOut ++ List.replicate n (wordOfPixel p) := rfl
@[simp] theorem State.putPixels_cmdIn : (s.putPixels n p).cmdIn = s.cmdIn := rfl
@[simp] theorem State.putPixels_params : (s.putPixels n p).params = s.params := rfl
@[simp] theorem State.putPixels_draws : (s.putPixels n p).draws = s.draws := rfl
@[simp] theorem State.npix_putPixels : (s.putPixels n p).npix = s.npix := rfl
@[simp] theorem State.nextPixel_putPixels : (s.putPixels n p).nextPixel = s.nextPixel := rfl
@[simp] theorem State.pixAtEnd_putPixels : (s.putPixels n p).pixAtEnd = s.pixAtEnd := rfl
@[simp] theorem State.descriptor_putPixels : (s.putPixels n p).descriptor = s.descriptor := rfl
@[simp] theorem State.len_putPixels : (s.putPixels n p).len = s.len := rfl
@[simp] theorem State.slot_putPixels (j : Slot) : (s.putPixels n p).slot j = s.slot j := rfl
@[simp] theorem State.lookup_putPixels (q : Pixel) : (s.putPixels n p).lookup q = s.lookup q := rfl
@[simp] theorem State.unread_putPixels (addr : Nat) : (s.putPixels n p).unread addr = s.unread addr := rfl
end PutPixels

section SetPrev
variable (p : Pixel)
@[simp] theorem State.setPrev_cache : (s.setPrev p).cache = s.cache := rfl
@[simp] theorem State.setPrev_prev : (s.setPrev p).prev = p := rfl
@[simp] theorem State.setPrev_run : (s.setPrev p).run = s.run := rfl
@[simp] theorem State.setPrev_pcnt : (s.setPrev p).pcnt = s.pcnt := rfl
@[simp] theorem State.setPrev_width : (s.setPrev p).width = s.width := rfl
@[simp] theorem State.setPrev_height : (s.setPrev p).height = s.height := rfl
@[simp] theorem State.setPrev_channels : (s.setPrev p).channels = s.channels := rfl
@[simp] theorem State.setPrev_colorspace : (s.setPrev p).colorspace = s.colorspace := rfl
@[simp] theorem State.setPrev_mode : (s.setPrev p).mode = s.mode := rfl
@[simp] theorem State.setPrev_phase : (s.setPrev p).phase = s.phase := rfl
@[simp] theorem State.setPrev_err : (s.setPrev p).err = s.err := rfl
@[simp] theorem State.setPrev_bpos : (s.setPrev p).bpos = s.bpos := rfl
@[simp] theorem State.setPrev_byteIn : (s.setPrev p).byteIn = s.byteIn := rfl
@[simp] theorem State.setPrev_pixIn : (s.setPrev p).pixIn = s.pixIn := rfl
@[simp] theorem State.setPrev_byteOut : (s.setPrev p).byteOut = s.byteOut := rfl
@[simp] theorem State.setPrev_pixOut : (s.setPrev p).pixOut = s.pixOut := rfl
@[simp] theorem State.setPrev_cmdIn : (s.setPrev p).cmdIn = s.cmdIn := rfl
@[simp] theorem State.setPrev_params : (s.setPrev p).params = s.params := rfl
@[simp] theorem State.setPrev_draws : (s.setPrev p).draws = s.draws := rfl
@[simp] theorem State.npix_setPrev : (s.setPrev p).npix = s.npix := rfl
@[simp] theorem State.nextPixel_setPrev : (s.setPrev p).nextPixel = s.nextPixel := rfl
@[simp] theorem State.pixAtEnd_setPrev : (s.setPrev p).pixAtEnd = s.pixAtEnd := rfl
@[simp] theorem State.descriptor_setPrev : (s.setPrev p).descriptor = s.descriptor := rfl
@[simp] theorem State.len_setPrev : (s.setPrev p).len = s.len := rfl
@[simp] theorem State.slot_setPrev (j : Slot) : (s.setPrev p).slot j = s.slot j := rfl
@[simp] theorem State.lookup_setPrev (q : Pixel) : (s.setPrev p).lookup q = s.lookup q := rfl
@[simp] theorem State.unread_setPrev (addr : Nat) : (s.setPrev p).unread addr = s.unread addr := rfl
end SetPrev

section SetRun
variable (n : BitVec 6)
@[simp] theorem State.setRun_cache : (s.setRun n).cache = s.cache := rfl
@[simp] theorem State.setRun_prev : (s.setRun n).prev = s.prev := rfl
@[simp] theorem State.setRun_run : (s.setRun n).run = n := rfl
@[simp] theorem State.setRun_pcnt : (s.setRun n).pcnt = s.pcnt := rfl
@[simp] theorem State.setRun_width : (s.setRun n).width = s.width := rfl
@[simp] theorem State.setRun_height : (s.setRun n).height = s.height := rfl
@[simp] theorem State.setRun_channels : (s.setRun n).channels = s.channels := rfl
@[simp] theorem State.setRun_colorspace : (s.setRun n).colorspace = s.colorspace := rfl
@[simp] theorem State.setRun_mode : (s.setRun n).mode = s.mode := rfl
@[simp] theorem State.setRun_phase : (s.setRun n).phase = s.phase := rfl
@[simp] theorem State.setRun_err : (s.setRun n).err = s.err := rfl
@[simp] theorem State.setRun_bpos : (s.setRun n).bpos = s.bpos := rfl
@[simp] theorem State.setRun_byteIn : (s.setRun n).byteIn = s.byteIn := rfl
@[simp] theorem State.setRun_pixIn : (s.setRun n).pixIn = s.pixIn := rfl
@[simp] theorem State.setRun_byteOut : (s.setRun n).byteOut = s.byteOut := rfl
@[simp] theorem State.setRun_pixOut : (s.setRun n).pixOut = s.pixOut := rfl
@[simp] theorem State.setRun_cmdIn : (s.setRun n).cmdIn = s.cmdIn := rfl
@[simp] theorem State.setRun_params : (s.setRun n).params = s.params := rfl
@[simp] theorem State.setRun_draws : (s.setRun n).draws = s.draws := rfl
@[simp] theorem State.npix_setRun : (s.setRun n).npix = s.npix := rfl
@[simp] theorem State.nextPixel_setRun : (s.setRun n).nextPixel = s.nextPixel := rfl
@[simp] theorem State.pixAtEnd_setRun : (s.setRun n).pixAtEnd = s.pixAtEnd := rfl
@[simp] theorem State.descriptor_setRun : (s.setRun n).descriptor = s.descriptor := rfl
@[simp] theorem State.len_setRun : (s.setRun n).len = s.len := rfl
@[simp] theorem State.slot_setRun (j : Slot) : (s.setRun n).slot j = s.slot j := rfl
@[simp] theorem State.lookup_setRun (q : Pixel) : (s.setRun n).lookup q = s.lookup q := rfl
@[simp] theorem State.unread_setRun (addr : Nat) : (s.setRun n).unread addr = s.unread addr := rfl
end SetRun

section SetPhase
variable (p : Phase)
@[simp] theorem State.setPhase_cache : (s.setPhase p).cache = s.cache := rfl
@[simp] theorem State.setPhase_prev : (s.setPhase p).prev = s.prev := rfl
@[simp] theorem State.setPhase_run : (s.setPhase p).run = s.run := rfl
@[simp] theorem State.setPhase_pcnt : (s.setPhase p).pcnt = s.pcnt := rfl
@[simp] theorem State.setPhase_width : (s.setPhase p).width = s.width := rfl
@[simp] theorem State.setPhase_height : (s.setPhase p).height = s.height := rfl
@[simp] theorem State.setPhase_channels : (s.setPhase p).channels = s.channels := rfl
@[simp] theorem State.setPhase_colorspace : (s.setPhase p).colorspace = s.colorspace := rfl
@[simp] theorem State.setPhase_mode : (s.setPhase p).mode = s.mode := rfl
@[simp] theorem State.setPhase_phase : (s.setPhase p).phase = p := rfl
@[simp] theorem State.setPhase_err : (s.setPhase p).err = s.err := rfl
@[simp] theorem State.setPhase_bpos : (s.setPhase p).bpos = s.bpos := rfl
@[simp] theorem State.setPhase_byteIn : (s.setPhase p).byteIn = s.byteIn := rfl
@[simp] theorem State.setPhase_pixIn : (s.setPhase p).pixIn = s.pixIn := rfl
@[simp] theorem State.setPhase_byteOut : (s.setPhase p).byteOut = s.byteOut := rfl
@[simp] theorem State.setPhase_pixOut : (s.setPhase p).pixOut = s.pixOut := rfl
@[simp] theorem State.setPhase_cmdIn : (s.setPhase p).cmdIn = s.cmdIn := rfl
@[simp] theorem State.setPhase_params : (s.setPhase p).params = s.params := rfl
@[simp] theorem State.setPhase_draws : (s.setPhase p).draws = s.draws := rfl
@[simp] theorem State.npix_setPhase : (s.setPhase p).npix = s.npix := rfl
@[simp] theorem State.nextPixel_setPhase : (s.setPhase p).nextPixel = s.nextPixel := rfl
@[simp] theorem State.pixAtEnd_setPhase : (s.setPhase p).pixAtEnd = s.pixAtEnd := rfl
@[simp] theorem State.descriptor_setPhase : (s.setPhase p).descriptor = s.descriptor := rfl
@[simp] theorem State.len_setPhase : (s.setPhase p).len = s.len := rfl
@[simp] theorem State.slot_setPhase (j : Slot) : (s.setPhase p).slot j = s.slot j := rfl
@[simp] theorem State.lookup_setPhase (q : Pixel) : (s.setPhase p).lookup q = s.lookup q := rfl
@[simp] theorem State.unread_setPhase (addr : Nat) : (s.setPhase p).unread addr = s.unread addr := rfl
end SetPhase

section SetMode
variable (m : Mode)
@[simp] theorem State.setMode_cache : (s.setMode m).cache = s.cache := rfl
@[simp] theorem State.setMode_prev : (s.setMode m).prev = s.prev := rfl
@[simp] theorem State.setMode_run : (s.setMode m).run = s.run := rfl
@[simp] theorem State.setMode_pcnt : (s.setMode m).pcnt = s.pcnt := rfl
@[simp] theorem State.setMode_width : (s.setMode m).width = s.width := rfl
@[simp] theorem State.setMode_height : (s.setMode m).height = s.height := rfl
@[simp] theorem State.setMode_channels : (s.setMode m).channels = s.channels := rfl
@[simp] theorem State.setMode_colorspace : (s.setMode m).colorspace = s.colorspace := rfl
@[simp] theorem State.setMode_mode : (s.setMode m).mode = m := rfl
@[simp] theorem State.setMode_phase : (s.setMode m).phase = s.phase := rfl
@[simp] theorem State.setMode_err : (s.setMode m).err = s.err := rfl
@[simp] theorem State.setMode_bpos : (s.setMode m).bpos = s.bpos := rfl
@[simp] theorem State.setMode_byteIn : (s.setMode m).byteIn = s.byteIn := rfl
@[simp] theorem State.setMode_pixIn : (s.setMode m).pixIn = s.pixIn := rfl
@[simp] theorem State.setMode_byteOut : (s.setMode m).byteOut = s.byteOut := rfl
@[simp] theorem State.setMode_pixOut : (s.setMode m).pixOut = s.pixOut := rfl
@[simp] theorem State.setMode_cmdIn : (s.setMode m).cmdIn = s.cmdIn := rfl
@[simp] theorem State.setMode_params : (s.setMode m).params = s.params := rfl
@[simp] theorem State.setMode_draws : (s.setMode m).draws = s.draws := rfl
@[simp] theorem State.npix_setMode : (s.setMode m).npix = s.npix := rfl
@[simp] theorem State.nextPixel_setMode : (s.setMode m).nextPixel = s.nextPixel := rfl
@[simp] theorem State.pixAtEnd_setMode : (s.setMode m).pixAtEnd = s.pixAtEnd := rfl
@[simp] theorem State.descriptor_setMode : (s.setMode m).descriptor = s.descriptor := rfl
@[simp] theorem State.len_setMode : (s.setMode m).len = s.len := rfl
@[simp] theorem State.slot_setMode (j : Slot) : (s.setMode m).slot j = s.slot j := rfl
@[simp] theorem State.lookup_setMode (q : Pixel) : (s.setMode m).lookup q = s.lookup q := rfl
@[simp] theorem State.unread_setMode (addr : Nat) : (s.setMode m).unread addr = s.unread addr := rfl
end SetMode

section SetPos
variable (n : Nat)
@[simp] theorem State.setPos_cache : (s.setPos n).cache = s.cache := rfl
@[simp] theorem State.setPos_prev : (s.setPos n).prev = s.prev := rfl
@[simp] theorem State.setPos_run : (s.setPos n).run = s.run := rfl
@[simp] theorem State.setPos_pcnt : (s.setPos n).pcnt = s.pcnt := rfl
@[simp] theorem State.setPos_width : (s.setPos n).width = s.width := rfl
@[simp] theorem State.setPos_height : (s.setPos n).height = s.height := rfl
@[simp] theorem State.setPos_channels : (s.setPos n).channels = s.channels := rfl
@[simp] theorem State.setPos_colorspace : (s.setPos n).colorspace = s.colorspace := rfl
@[simp] theorem State.setPos_mode : (s.setPos n).mode = s.mode := rfl
@[simp] theorem State.setPos_phase : (s.setPos n).phase = s.phase := rfl
@[simp] theorem State.setPos_err : (s.setPos n).err = s.err := rfl
@[simp] theorem State.setPos_bpos : (s.setPos n).bpos = n := rfl
@[simp] theorem State.setPos_byteIn : (s.setPos n).byteIn = s.byteIn := rfl
@[simp] theorem State.setPos_pixIn : (s.setPos n).pixIn = s.pixIn := rfl
@[simp] theorem State.setPos_byteOut : (s.setPos n).byteOut = s.byteOut := rfl
@[simp] theorem State.setPos_pixOut : (s.setPos n).pixOut = s.pixOut := rfl
@[simp] theorem State.setPos_cmdIn : (s.setPos n).cmdIn = s.cmdIn := rfl
@[simp] theorem State.setPos_params : (s.setPos n).params = s.params := rfl
@[simp] theorem State.setPos_draws : (s.setPos n).draws = s.draws := rfl
@[simp] theorem State.npix_setPos : (s.setPos n).npix = s.npix := rfl
@[simp] theorem State.nextPixel_setPos : (s.setPos n).nextPixel = s.nextPixel := rfl
@[simp] theorem State.pixAtEnd_setPos : (s.setPos n).pixAtEnd = s.pixAtEnd := rfl
@[simp] theorem State.descriptor_setPos : (s.setPos n).descriptor = s.descriptor := rfl
@[simp] theorem State.len_setPos : (s.setPos n).len = s.len := rfl
@[simp] theorem State.slot_setPos (j : Slot) : (s.setPos n).slot j = s.slot j := rfl
@[simp] theorem State.lookup_setPos (q : Pixel) : (s.setPos n).lookup q = s.lookup q := rfl
@[simp] theorem State.unread_setPos (addr : Nat) : (s.setPos n).unread addr = s.unread addr := rfl
end SetPos

section CountPixels
variable (n : Nat)
@[simp] theorem State.countPixels_cache : (s.countPixels n).cache = s.cache := rfl
@[simp] theorem State.countPixels_prev : (s.countPixels n).prev = s.prev := rfl
@[simp] theorem State.countPixels_run : (s.countPixels n).run = s.run := rfl
@[simp] theorem State.countPixels_pcnt : (s.countPixels n).pcnt = s.pcnt + BitVec.ofNat 64 n := rfl
@[simp] theorem State.countPixels_width : (s.countPixels n).width = s.width := rfl
@[simp] theorem State.countPixels_height : (s.countPixels n).height = s.height := rfl
@[simp] theorem State.countPixels_channels : (s.countPixels n).channels = s.channels := rfl
@[simp] theorem State.countPixels_colorspace : (s.countPixels n).colorspace = s.colorspace := rfl
@[simp] theorem State.countPixels_mode : (s.countPixels n).mode = s.mode := rfl
@[simp] theorem State.countPixels_phase : (s.countPixels n).phase = if s.pcnt + BitVec.ofNat 64 n = s.npix then .trailer else s.phase := rfl
@[simp] theorem State.countPixels_err : (s.countPixels n).err = s.err := rfl
@[simp] theorem State.countPixels_bpos : (s.countPixels n).bpos = s.bpos := rfl
@[simp] theorem State.countPixels_byteIn : (s.countPixels n).byteIn = s.byteIn := rfl
@[simp] theorem State.countPixels_pixIn : (s.countPixels n).pixIn = s.pixIn := rfl
@[simp] theorem State.countPixels_byteOut : (s.countPixels n).byteOut = s.byteOut := rfl
@[simp] theorem State.countPixels_pixOut : (s.countPixels n).pixOut = s.pixOut := rfl
@[simp] theorem State.countPixels_cmdIn : (s.countPixels n).cmdIn = s.cmdIn := rfl
@[simp] theorem State.countPixels_params : (s.countPixels n).params = s.params := rfl
@[simp] theorem State.countPixels_draws : (s.countPixels n).draws = s.draws := rfl
@[simp] theorem State.npix_countPixels : (s.countPixels n).npix = s.npix := rfl
@[simp] theorem State.descriptor_countPixels : (s.countPixels n).descriptor = s.descriptor := rfl
@[simp] theorem State.len_countPixels : (s.countPixels n).len = s.len := rfl
@[simp] theorem State.slot_countPixels (j : Slot) : (s.countPixels n).slot j = s.slot j := rfl
@[simp] theorem State.lookup_countPixels (q : Pixel) : (s.countPixels n).lookup q = s.lookup q := rfl
@[simp] theorem State.unread_countPixels (addr : Nat) : (s.countPixels n).unread addr = s.unread addr := rfl
end CountPixels

section Advance
variable (n : Nat)
@[simp] theorem State.advance_cache : (s.advance n).cache = s.cache := rfl
@[simp] theorem State.advance_prev : (s.advance n).prev = s.prev := rfl
@[simp] theorem State.advance_run : (s.advance n).run = s.run := rfl
@[simp] theorem State.advance_pcnt : (s.advance n).pcnt = s.pcnt := rfl
@[simp] theorem State.advance_width : (s.advance n).width = s.width := rfl
@[simp] theorem State.advance_height : (s.advance n).height = s.height := rfl
@[simp] theorem State.advance_channels : (s.advance n).channels = s.channels := rfl
@[simp] theorem State.advance_colorspace : (s.advance n).colorspace = s.colorspace := rfl
@[simp] theorem State.advance_mode : (s.advance n).mode = s.mode := rfl
@[simp] theorem State.advance_phase : (s.advance n).phase = s.phase := rfl
@[simp] theorem State.advance_err : (s.advance n).err = s.err := rfl
@[simp] theorem State.advance_bpos : (s.advance n).bpos = s.bpos + n := rfl
@[simp] theorem State.advance_byteIn : (s.advance n).byteIn = s.byteIn := rfl
@[simp] theorem State.advance_pixIn : (s.advance n).pixIn = s.pixIn := rfl
@[simp] theorem State.advance_byteOut : (s.advance n).byteOut = s.byteOut := rfl
@[simp] theorem State.advance_pixOut : (s.advance n).pixOut = s.pixOut := rfl
@[simp] theorem State.advance_cmdIn : (s.advance n).cmdIn = s.cmdIn := rfl
@[simp] theorem State.advance_params : (s.advance n).params = s.params := rfl
@[simp] theorem State.advance_draws : (s.advance n).draws = s.draws := rfl
@[simp] theorem State.npix_advance : (s.advance n).npix = s.npix := rfl
@[simp] theorem State.nextPixel_advance : (s.advance n).nextPixel = s.nextPixel := rfl
@[simp] theorem State.pixAtEnd_advance : (s.advance n).pixAtEnd = s.pixAtEnd := rfl
@[simp] theorem State.descriptor_advance : (s.advance n).descriptor = s.descriptor := rfl
@[simp] theorem State.len_advance : (s.advance n).len = s.len := rfl
@[simp] theorem State.slot_advance (j : Slot) : (s.advance n).slot j = s.slot j := rfl
@[simp] theorem State.lookup_advance (q : Pixel) : (s.advance n).lookup q = s.lookup q := rfl
@[simp] theorem State.unread_advance (addr : Nat) : (s.advance n).unread addr = s.unread addr := rfl
end Advance

section Raise
variable (k : ErrKind)
@[simp] theorem State.raise_cache : (s.raise k).cache = s.cache := rfl
@[simp] theorem State.raise_prev : (s.raise k).prev = s.prev := rfl
@[simp] theorem State.raise_run : (s.raise k).run = s.run := rfl
@[simp] theorem State.raise_pcnt : (s.raise k).pcnt = s.pcnt := rfl
@[simp] theorem State.raise_width : (s.raise k).width = s.width := rfl
@[simp] theorem State.raise_height : (s.raise k).height = s.height := rfl
@[simp] theorem State.raise_channels : (s.raise k).channels = s.channels := rfl
@[simp] theorem State.raise_colorspace : (s.raise k).colorspace = s.colorspace := rfl
@[simp] theorem State.raise_mode : (s.raise k).mode = s.mode := rfl
@[simp] theorem State.raise_phase : (s.raise k).phase = .error := rfl
@[simp] theorem State.raise_err : (s.raise k).err = some k := rfl
@[simp] theorem State.raise_bpos : (s.raise k).bpos = s.bpos := rfl
@[simp] theorem State.raise_byteIn : (s.raise k).byteIn = s.byteIn := rfl
@[simp] theorem State.raise_pixIn : (s.raise k).pixIn = s.pixIn := rfl
@[simp] theorem State.raise_byteOut : (s.raise k).byteOut = s.byteOut := rfl
@[simp] theorem State.raise_pixOut : (s.raise k).pixOut = s.pixOut := rfl
@[simp] theorem State.raise_cmdIn : (s.raise k).cmdIn = s.cmdIn := rfl
@[simp] theorem State.raise_params : (s.raise k).params = s.params := rfl
@[simp] theorem State.raise_draws : (s.raise k).draws = s.draws := rfl
@[simp] theorem State.npix_raise : (s.raise k).npix = s.npix := rfl
@[simp] theorem State.nextPixel_raise : (s.raise k).nextPixel = s.nextPixel := rfl
@[simp] theorem State.pixAtEnd_raise : (s.raise k).pixAtEnd = s.pixAtEnd := rfl
@[simp] theorem State.descriptor_raise : (s.raise k).descriptor = s.descriptor := rfl
@[simp] theorem State.len_raise : (s.raise k).len = s.len := rfl
@[simp] theorem State.slot_raise (j : Slot) : (s.raise k).slot j = s.slot j := rfl
@[simp] theorem State.lookup_raise (q : Pixel) : (s.raise k).lookup q = s.lookup q := rfl
@[simp] theorem State.unread_raise (addr : Nat) : (s.raise k).unread addr = s.unread addr := rfl
end Raise

section SetDescriptor
variable (d : Descriptor)
@[simp] theorem State.setDescriptor_cache : (s.setDescriptor d).cache = s.cache := rfl
@[simp] theorem State.setDescriptor_prev : (s.setDescriptor d).prev = s.prev := rfl
@[simp] theorem State.setDescriptor_run : (s.setDescriptor d).run = s.run := rfl
@[simp] theorem State.setDescriptor_pcnt : (s.setDescriptor d).pcnt = s.pcnt := rfl
@[simp] theorem State.setDescriptor_width : (s.setDescriptor d).width = d.width := rfl
@[simp] theorem State.setDescriptor_height : (s.setDescriptor d).height = d.height := rfl
@[simp] theorem State.setDescriptor_channels : (s.setDescriptor d).channels = d.channels := rfl
@[simp] theorem State.setDescriptor_colorspace : (s.setDescriptor d).colorspace = d.colorspace := rfl
@[simp] theorem State.setDescriptor_mode : (s.setDescriptor d).mode = s.mode := rfl
@[simp] theorem State.setDescriptor_phase : (s.setDescriptor d).phase = s.phase := rfl
@[simp] theorem State.setDescriptor_err : (s.setDescriptor d).err = s.err := rfl
@[simp] theorem State.setDescriptor_bpos : (s.setDescriptor d).bpos = s.bpos := rfl
@[simp] theorem State.setDescriptor_byteIn : (s.setDescriptor d).byteIn = s.byteIn := rfl
@[simp] theorem State.setDescriptor_pixIn : (s.setDescriptor d).pixIn = s.pixIn := rfl
@[simp] theorem State.setDescriptor_byteOut : (s.setDescriptor d).byteOut = s.byteOut := rfl
@[simp] theorem State.setDescriptor_pixOut : (s.setDescriptor d).pixOut = s.pixOut := rfl
@[simp] theorem State.setDescriptor_cmdIn : (s.setDescriptor d).cmdIn = s.cmdIn := rfl
@[simp] theorem State.setDescriptor_params : (s.setDescriptor d).params = s.params := rfl
@[simp] theorem State.setDescriptor_draws : (s.setDescriptor d).draws = s.draws := rfl
@[simp] theorem State.nextPixel_setDescriptor : (s.setDescriptor d).nextPixel = s.nextPixel := rfl
@[simp] theorem State.pixAtEnd_setDescriptor : (s.setDescriptor d).pixAtEnd = s.pixAtEnd := rfl
@[simp] theorem State.len_setDescriptor : (s.setDescriptor d).len = s.len := rfl
@[simp] theorem State.slot_setDescriptor (j : Slot) : (s.setDescriptor d).slot j = s.slot j := rfl
@[simp] theorem State.lookup_setDescriptor (q : Pixel) : (s.setDescriptor d).lookup q = s.lookup q := rfl
@[simp] theorem State.unread_setDescriptor (addr : Nat) : (s.setDescriptor d).unread addr = s.unread addr := rfl
end SetDescriptor

section ForgetDescriptor
@[simp] theorem State.forgetDescriptor_cache : s.forgetDescriptor.cache = s.cache := rfl
@[simp] theorem State.forgetDescriptor_prev : s.forgetDescriptor.prev = s.prev := rfl
@[simp] theorem State.forgetDescriptor_run : s.forgetDescriptor.run = s.run := rfl
@[simp] theorem State.forgetDescriptor_pcnt : s.forgetDescriptor.pcnt = s.pcnt := rfl
@[simp] theorem State.forgetDescriptor_width : s.forgetDescriptor.width = Config.freeWidth s.draws := rfl
@[simp] theorem State.forgetDescriptor_height : s.forgetDescriptor.height = Config.freeHeight s.draws := rfl
@[simp] theorem State.forgetDescriptor_channels : s.forgetDescriptor.channels = Config.freeChannels s.draws := rfl
@[simp] theorem State.forgetDescriptor_colorspace : s.forgetDescriptor.colorspace = Config.freeColorspace s.draws := rfl
@[simp] theorem State.forgetDescriptor_mode : s.forgetDescriptor.mode = s.mode := rfl
@[simp] theorem State.forgetDescriptor_phase : s.forgetDescriptor.phase = s.phase := rfl
@[simp] theorem State.forgetDescriptor_err : s.forgetDescriptor.err = s.err := rfl
@[simp] theorem State.forgetDescriptor_bpos : s.forgetDescriptor.bpos = s.bpos := rfl
@[simp] theorem State.forgetDescriptor_byteIn : s.forgetDescriptor.byteIn = s.byteIn := rfl
@[simp] theorem State.forgetDescriptor_pixIn : s.forgetDescriptor.pixIn = s.pixIn := rfl
@[simp] theorem State.forgetDescriptor_byteOut : s.forgetDescriptor.byteOut = s.byteOut := rfl
@[simp] theorem State.forgetDescriptor_pixOut : s.forgetDescriptor.pixOut = s.pixOut := rfl
@[simp] theorem State.forgetDescriptor_cmdIn : s.forgetDescriptor.cmdIn = s.cmdIn := rfl
@[simp] theorem State.forgetDescriptor_params : s.forgetDescriptor.params = s.params := rfl
@[simp] theorem State.forgetDescriptor_draws : s.forgetDescriptor.draws = s.draws + 1 := rfl
@[simp] theorem State.nextPixel_forgetDescriptor : s.forgetDescriptor.nextPixel = s.nextPixel := rfl
@[simp] theorem State.pixAtEnd_forgetDescriptor : s.forgetDescriptor.pixAtEnd = s.pixAtEnd := rfl
@[simp] theorem State.len_forgetDescriptor : s.forgetDescriptor.len = s.len := rfl
@[simp] theorem State.slot_forgetDescriptor (j : Slot) : s.forgetDescriptor.slot j = s.slot j := rfl
@[simp] theorem State.lookup_forgetDescriptor (q : Pixel) : s.forgetDescriptor.lookup q = s.lookup q := rfl
@[simp] theorem State.unread_forgetDescriptor (addr : Nat) : s.forgetDescriptor.unread addr = s.unread addr := rfl
end ForgetDescriptor

section StartPass
@[simp] theorem State.startPass_cache : s.startPass.cache = Vector.replicate 64 Config.defaultPixel := rfl
@[simp] theorem State.startPass_prev : s.startPass.prev = Config.defaultPixel := rfl
@[simp] theorem State.startPass_run : s.startPass.run = 0 := rfl
@[simp] theorem State.startPass_pcnt : s.startPass.pcnt = 0 := rfl
@[simp] theorem State.startPass_width : s.startPass.width = s.width := rfl
@[simp] theorem State.startPass_height : s.startPass.height = s.height := rfl
@[simp] theorem State.startPass_channels : s.startPass.channels = s.channels := rfl
@[simp] theorem State.startPass_colorspace : s.startPass.colorspace = s.colorspace := rfl
@[simp] theorem State.startPass_mode : s.startPass.mode = s.mode := rfl
@[simp] theorem State.startPass_phase : s.startPass.phase = .header := rfl
@[simp] theorem State.startPass_err : s.startPass.err = none := rfl
@[simp] theorem State.startPass_bpos : s.startPass.bpos = 0 := rfl
@[simp] theorem State.startPass_byteIn : s.startPass.byteIn = s.byteIn := rfl
@[simp] theorem State.startPass_pixIn : s.startPass.pixIn = s.pixIn := rfl
@[simp] theorem State.startPass_byteOut : s.startPass.byteOut = [] := rfl
@[simp] theorem State.startPass_pixOut : s.startPass.pixOut = [] := rfl
@[simp] theorem State.startPass_cmdIn : s.startPass.cmdIn = s.cmdIn := rfl
@[simp] theorem State.startPass_params : s.startPass.params = s.params := rfl
@[simp] theorem State.startPass_draws : s.startPass.draws = s.draws := rfl
@[simp] theorem State.npix_startPass : s.startPass.npix = s.npix := rfl
@[simp] theorem State.descriptor_startPass : s.startPass.descriptor = s.descriptor := rfl
@[simp] theorem State.len_startPass : s.startPass.len = s.len := rfl
@[simp] theorem State.unread_startPass (addr : Nat) : s.startPass.unread addr = s.unread addr := rfl
end StartPass

section Boundary
@[simp] theorem State.boundary_cache : s.boundary.cache = s.cache := rfl
@[simp] theorem State.boundary_prev : s.boundary.prev = s.prev := rfl
@[simp] theorem State.boundary_run : s.boundary.run = s.run := rfl
@[simp] theorem State.boundary_pcnt : s.boundary.pcnt = s.pcnt := rfl
@[simp] theorem State.boundary_width : s.boundary.width = s.width := rfl
@[simp] theorem State.boundary_height : s.boundary.height = s.height := rfl
@[simp] theorem State.boundary_channels : s.boundary.channels = s.channels := rfl
@[simp] theorem State.boundary_colorspace : s.boundary.colorspace = s.colorspace := rfl
@[simp] theorem State.boundary_mode : s.boundary.mode = s.mode := rfl
@[simp] theorem State.boundary_phase : s.boundary.phase = s.phase := rfl
@[simp] theorem State.boundary_err : s.boundary.err = s.err := rfl
@[simp] theorem State.boundary_bpos : s.boundary.bpos = s.bpos := rfl
@[simp] theorem State.boundary_byteIn : s.boundary.byteIn = s.byteIn := rfl
@[simp] theorem State.boundary_pixIn : s.boundary.pixIn = s.pixIn := rfl
@[simp] theorem State.boundary_byteOut : s.boundary.byteOut = s.byteOut := rfl
@[simp] theorem State.boundary_pixOut : s.boundary.pixOut = s.pixOut := rfl
@[simp] theorem State.boundary_cmdIn : s.boundary.cmdIn = s.cmdIn.tail := rfl
@[simp] theorem State.boundary_params : s.boundary.params = s.params := rfl
@[simp] theorem State.boundary_draws : s.boundary.draws = s.draws := rfl
@[simp] theorem State.npix_boundary : s.boundary.npix = s.npix := rfl
@[simp] theorem State.nextPixel_boundary : s.boundary.nextPixel = s.nextPixel := rfl
@[simp] theorem State.pixAtEnd_boundary : s.boundary.pixAtEnd = s.pixAtEnd := rfl
@[simp] theorem State.descriptor_boundary : s.boundary.descriptor = s.descriptor := rfl
@[simp] theorem State.len_boundary : s.boundary.len = s.len := rfl
@[simp] theorem State.slot_boundary (j : Slot) : s.boundary.slot j = s.slot j := rfl
@[simp] theorem State.lookup_boundary (q : Pixel) : s.boundary.lookup q = s.lookup q := rfl
@[simp] theorem State.unread_boundary (addr : Nat) : s.boundary.unread addr = s.unread addr := rfl
end Boundary

@[simp] theorem State.descriptor_setDescriptor (d : Descriptor) : (s.setDescriptor d).descriptor = d := rfl

end Sys2Proof.Machine
end

