-- ==== Sys2Proof/Laws/Ops.lean ====
section
/-! SUPPORT. One lemma for each shared operation: what it can do and what it leaves alone. -/

namespace Sys2Proof.Machine

open Sys2Proof

variable {s t : State}

/-! ### The cache -/

@[simp] theorem State.slot_store_self (s : State) (p : Pixel) : (s.store p).slot (pixelHash p) = p := by
  simp [State.slot, State.store, Vector.get_eq_getElem]

theorem State.slot_store (s : State) (p : Pixel) (j : Slot) :
    (s.store p).slot j = if j = pixelHash p then p else s.slot j := by
  simp only [State.slot, State.store_cache, Vector.get_eq_getElem, Vector.getElem_set]
  by_cases h : j = pixelHash p
  · simp [h]
  · have : (pixelHash p).val ≠ j.val := fun e => h (Fin.ext e.symm)
    simp [h, this]

theorem State.slot_congr (h : t.cache = s.cache) (j : Slot) : t.slot j = s.slot j := by
  simp [State.slot, h]

/-- Two caches are one when their slots are. -/
theorem State.cache_ext (h : ∀ j, t.slot j = s.slot j) : t.cache = s.cache := by
  apply Vector.ext
  intro i hi
  simpa [State.slot, Vector.get_eq_getElem] using h ⟨i, hi⟩

@[simp] theorem State.lookup_iff (s : State) (p : Pixel) : s.lookup p = true ↔ s.slot (pixelHash p) = p := by
  simp [State.lookup]

@[simp] theorem State.slot_startPass (s : State) (j : Slot) : s.startPass.slot j = Config.defaultPixel := by
  simp [State.slot, State.startPass, Vector.get_eq_getElem]

theorem pixelHash_val (p : Pixel) :
    (pixelHash p).val = (p.r.toNat * 3 + p.g.toNat * 5 + p.b.toNat * 7 + p.a.toNat * 11) % 64 := rfl

/-! ### NPIX and the counter -/

/-- The 64-bit product is the exact one: no dimension overflows it (`10_state.md` R13). -/
theorem State.npix_toNat (s : State) : s.npix.toNat = s.width.toNat * s.height.toNat := by
  have hw := s.width.isLt
  have hh := s.height.isLt
  have h := Nat.mul_lt_mul'' hw hh
  simp only [State.npix, BitVec.toNat_mul, BitVec.toNat_setWidth]
  rw [Nat.mod_eq_of_lt (a := s.width.toNat) (by omega), Nat.mod_eq_of_lt (a := s.height.toNat) (by omega)]
  exact Nat.mod_eq_of_lt (by omega)

theorem State.npix_congr (hw : t.width = s.width) (hh : t.height = s.height) : t.npix = s.npix := by
  simp [State.npix, hw, hh]

/-- A legal descriptor declares at least one pixel (`10_state.md` R17). -/
theorem legalDescriptor_iff (w h : Word) (c cs : Byte) : legalDescriptor w h c cs = true ↔
    w ≠ 0 ∧ h ≠ 0 ∧ (c = 3 ∨ c = 4) ∧ (cs = 0 ∨ cs = 1) := by
  simp [legalDescriptor, and_assoc]

theorem State.npix_pos (h : s.descriptor.legal = true) : 0 < s.npix.toNat := by
  simp only [Descriptor.legal, State.descriptor, legalDescriptor_iff] at h
  rw [State.npix_toNat]
  have hw : s.width.toNat ≠ 0 := fun e => h.1 (BitVec.eq_of_toNat_eq e)
  have hh : s.height.toNat ≠ 0 := fun e => h.2.1 (BitVec.eq_of_toNat_eq e)
  exact Nat.mul_pos (Nat.pos_of_ne_zero hw) (Nat.pos_of_ne_zero hh)

/-- Counting pixels that the declared number still has room for does not wrap. -/
theorem State.pcnt_add_toNat {n : Nat} (h : s.pcnt.toNat + n ≤ s.npix.toNat) :
    (s.pcnt + BitVec.ofNat 64 n).toNat = s.pcnt.toNat + n := by
  have := s.npix.isLt
  simp only [BitVec.toNat_add, BitVec.toNat_ofNat]
  omega

/-! ### The decoder step -/

/-- All a decoder step can do when it goes on: its effect, or the error entry on the state before it. -/
theorem decoderStep_next {i : Instr} {e : State → Except ErrKind State}
    (h : decoderStep i s e = .next t) :
    i.wellFormed = true ∧ s.mode = .decode ∧ s.phase = placePhase i.place ∧ (e s = .ok t ∨ ∃ k, e s = .error k ∧ t = s.raise k) := by
  unfold decoderStep at h
  split at h
  · split at h
    · rename_i hw hmp
      refine ⟨hw, hmp.1, hmp.2, ?_⟩
      unfold atomically at h
      split at h <;> simp_all
    · simp at h
  · simp at h

/-- A decoder step in its mode and phase with operands in range is its effect. -/
theorem decoderStep_enabled {i : Instr} (e : State → Except ErrKind State)
    (hw : i.wellFormed = true) (hm : s.mode = .decode) (hp : s.phase = placePhase i.place) :
    decoderStep i s e = atomically s e := by
  simp [decoderStep, hw, hm, hp]

/-- A decoder step faults exactly outside its mode and phase. -/
theorem decoderStep_fault_iff {i : Instr} {e : State → Except ErrKind State} {r : Fault} :
    decoderStep i s e = .fault r ↔ i.wellFormed = true ∧ ¬(s.mode = .decode ∧ s.phase = placePhase i.place) := by
  cases r
  unfold decoderStep atomically
  split
  · split
    · split <;> simp_all
    · simp_all
  · simp_all

/-- A decoder step is refused exactly for a term that is no record. -/
theorem decoderStep_refused_iff {i : Instr} {e : State → Except ErrKind State} {r : Refusal} :
    decoderStep i s e = .refused r ↔ i.wellFormed = false ∧ r = .operandOutOfRange := by
  unfold decoderStep atomically
  split
  · split
    · split <;> simp_all
    · simp_all
  · rename_i hw
    simp only [Bool.not_eq_true] at hw
    simp only [hw, Host.Outcome.refused.injEq, true_and]
    exact eq_comm

/-! ### Port words -/

/-- A word is the word of its pixel. -/
@[simp] theorem wordOfPixel_pixelOfWord (w : Word) : wordOfPixel (pixelOfWord w) = w := by
  have h := unbe32_be32 w
  simpa [wordOfPixel, pixelOfWord, unbe32] using h

/-- A pixel is the pixel of its word. -/
@[simp] theorem pixelOfWord_wordOfPixel (p : Pixel) : pixelOfWord (wordOfPixel p) = p := by
  obtain ⟨r, g, b, a⟩ := p
  simp only [pixelOfWord, wordOfPixel, Pixel.mk.injEq]
  refine ⟨?_, ?_, ?_, ?_⟩ <;> ext i hi <;>
    rw [BitVec.getElem_extractLsb', BitVec.getLsbD_append, BitVec.getLsbD_append, BitVec.getLsbD_append]
  · simp [hi, BitVec.getLsbD_eq_getElem]
  · simp [hi, show ¬ 8 + i < 8 by omega, BitVec.getLsbD_eq_getElem]
  · simp [hi, show ¬ 16 + i < 8 by omega, show 16 + i - 8 = 8 + i by omega, BitVec.getLsbD_eq_getElem]
  · simp [hi, show ¬ 24 + i < 8 by omega, show 24 + i - 8 = 16 + i by omega, show 16 + i - 8 = 8 + i by omega,
      show ¬ 16 + i < 8 by omega, show ¬ 8 + i < 8 by omega, BitVec.getLsbD_eq_getElem]

end Sys2Proof.Machine
end

