-- ==== Sys2Proof/Laws/Encoder.lean ====
section
/-! SUPPORT. What the parts of the encoder's pixel step do when the run counter is at a step boundary value. -/

namespace Sys2Proof.Machine

open Sys2Proof

variable {s t : State}

@[simp] theorem andThen_next (t : State) (f : State → Outcome) : andThen (.next t) f = f t := rfl

/-- A sequence of two parts goes on exactly when both do. -/
theorem andThen_eq_next {o : Outcome} {f : State → Outcome} :
    andThen o f = .next t ↔ ∃ u, o = .next u ∧ f u = .next t := by
  cases o <;> simp [andThen]

theorem emitRecord_of_wellFormed {i : Instr} (h : i.wellFormed = true) (s : State) :
    emitRecord i s = .next (s.emit (encode i)) := by
  simp [emitRecord, pack_of_wellFormed h]

/-- The chunk chosen for a miss always has its operands in range (`42_byte_packer_unpacker.md` R131). -/
theorem missChunk_wellFormed (px prev : Pixel) : (missChunk px prev).wellFormed = true := by
  unfold missChunk
  split
  · rename_i h
    simp only [diffOk, Bool.and_eq_true, inRange_iff] at h
    exact (wellFormed_diff _ _ _).2 ⟨h.1.1.2, h.1.2, h.2⟩
  · split
    · rename_i h
      simp only [lumaOk, Bool.and_eq_true, inRange_iff] at h
      exact (wellFormed_luma _ _ _).2 ⟨h.1.1.2, h.1.2, h.2⟩
    · split <;> rfl

/-- A flush emits the RUN chunk of the counter and clears it. -/
theorem flushRun_eq (h1 : 1 ≤ s.run.toNat) (h2 : s.run.toNat ≤ 62) :
    flushRun s = .next ((s.emit (encode (.run s.run.toNat))).setRun 0) := by
  simp [flushRun, emitRecord_of_wellFormed ((wellFormed_run _).2 ⟨h1, h2⟩)]

theorem run_succ_toNat (h : s.run.toNat ≤ 61) : (s.run + 1).toNat = s.run.toNat + 1 := by
  rw [BitVec.toNat_add, show (1 : BitVec 6).toNat = 1 from rfl]
  omega

/-- Rule 1 flushes when the counter reaches 62 or the pixel is the final one (R86). -/
def State.flushesNow (s : State) : Prop := s.run.toNat + 1 = 62 ∨ s.pcnt = s.npix - 1

theorem flushesNow_iff (h : s.run.toNat ≤ 61) : s.flushesNow ↔
    (s.setRun (s.run + 1)).run = Config.runMax ∨ (s.setRun (s.run + 1)).atFinalPixel = true := by
  have hr := run_succ_toNat h
  unfold State.flushesNow State.atFinalPixel
  rw [State.setRun_run, decide_eq_true_iff]
  refine or_congr ⟨fun e => BitVec.eq_of_toNat_eq (by rw [hr, e]; rfl), fun e => ?_⟩ Iff.rfl
  rw [← hr, e]; rfl

/-- Rule 1 at a step boundary, flushing. -/
theorem continueRun_flush (h : s.run.toNat ≤ 61) (hf : s.flushesNow) :
    continueRun s = .next ((s.emit (encode (.run (s.run.toNat + 1)))).setRun 0) := by
  have hr := run_succ_toNat h
  simp only [continueRun, if_pos ((flushesNow_iff h).1 hf)]
  rw [flushRun_eq (by rw [State.setRun_run, hr]; omega) (by rw [State.setRun_run, hr]; omega), State.setRun_run, hr]
  rfl

/-- Rule 1 at a step boundary, not flushing. -/
theorem continueRun_count (h : s.run.toNat ≤ 61) (hf : ¬ s.flushesNow) :
    continueRun s = .next (s.setRun (s.run + 1)) := by
  simp only [continueRun, if_neg (fun e => hf ((flushesNow_iff h).2 e))]

/-- The bytes rule 2 emits: the RUN chunk of a pending run, nothing otherwise (R87). -/
def State.pendingBytes (s : State) : List Byte := if s.run = 0 then [] else encode (.run s.run.toNat)

/-- Rule 2 at a step boundary. -/
theorem flushPending_eq (h : s.run.toNat ≤ 61) :
    flushPending s = .next ((s.emit s.pendingBytes).setRun 0) := by
  unfold flushPending State.pendingBytes
  by_cases h0 : s.run = 0
  · rw [if_pos h0, if_pos h0, ← h0]
    simp [State.emit, State.setRun]
  · have : s.run.toNat ≠ 0 := fun e => h0 (BitVec.eq_of_toNat_eq e)
    rw [if_neg h0, if_neg h0]
    exact flushRun_eq (by omega) (by omega)

/-- The chunk rules 3 and 4 choose for a pixel that differs from PREV. -/
def State.chunkFor (s : State) (px : Pixel) : Instr :=
  if s.lookup px then .index (pixelHash px) else missChunk px s.prev

/-- The state rules 3 and 4 leave, but for the bytes. -/
def State.remember (s : State) (px : Pixel) : State :=
  (if s.lookup px then s else s.store px).setPrev px

theorem chunkFor_wellFormed (s : State) (px : Pixel) : (s.chunkFor px).wellFormed = true := by
  unfold State.chunkFor; split
  · rfl
  · exact missChunk_wellFormed _ _

/-- Rules 3 and 4 never stop. -/
theorem codePixel_eq (px : Pixel) (s : State) :
    codePixel px s = .next ((s.remember px).emit (encode (s.chunkFor px))) := by
  unfold codePixel State.remember State.chunkFor
  split
  · simp [emitRecord_of_wellFormed (show (Instr.index (pixelHash px)).wellFormed = true from rfl)]; rfl
  · simp [emitRecord_of_wellFormed (missChunk_wellFormed _ _)]; rfl

/-- The pixel step on a pixel equal to PREV, flushing. -/
theorem encodePixel_flush (h : s.run.toNat ≤ 61) (hp : s.nextPixel = some s.prev) (hf : s.flushesNow) :
    encodePixel s = .next (State.countPixels ((s.emit (encode (.run (s.run.toNat + 1)))).setRun 0) 1) := by
  simp [encodePixel, hp, continueRun_flush h hf]

/-- The pixel step on a pixel equal to PREV, not flushing. -/
theorem encodePixel_count (h : s.run.toNat ≤ 61) (hp : s.nextPixel = some s.prev) (hf : ¬ s.flushesNow) :
    encodePixel s = .next (State.countPixels (s.setRun (s.run + 1)) 1) := by
  simp [encodePixel, hp, continueRun_count h hf]

/-- The state a pixel that differs from PREV leaves: the pending run flushed, the chunk after it, the pixel
remembered and counted. -/
def State.coded (s : State) (px : Pixel) : State :=
  ((((s.setRun 0).remember px).emit (s.pendingBytes ++ encode (s.chunkFor px))).countPixels 1)

/-- The pixel step on a pixel that differs from PREV. -/
theorem encodePixel_change {px : Pixel} (h : s.run.toNat ≤ 61) (hp : s.nextPixel = some px) (hne : px ≠ s.prev) :
    encodePixel s = .next (s.coded px) := by
  simp only [encodePixel, hp, if_neg hne, flushPending_eq h, andThen_next, codePixel_eq, State.coded, State.remember,
    State.chunkFor, State.lookup_setRun, State.lookup_emit]
  rcases Bool.eq_false_or_eq_true (s.lookup px) with hl | hl <;>
    simp only [hl, Bool.false_eq_true, ↓reduceIte] <;>
    simp [State.emit, State.countPixels, State.setPrev, State.setRun, State.store, State.npix] <;> rfl

/-- A source that has ended raises (R103). -/
theorem encodePixel_ended (hp : s.nextPixel = none) : encodePixel s = .next (s.raise .pixelCountMismatch) := by
  simp [encodePixel, hp]

/-- The whole pixel step at a step boundary. -/
theorem encodePixel_cases (h : s.run.toNat ≤ 61) :
    (s.nextPixel = none ∧ encodePixel s = .next (s.raise .pixelCountMismatch)) ∨
    (s.nextPixel = some s.prev ∧ s.flushesNow ∧
      encodePixel s = .next (State.countPixels ((s.emit (encode (.run (s.run.toNat + 1)))).setRun 0) 1)) ∨
    (s.nextPixel = some s.prev ∧ ¬ s.flushesNow ∧
      encodePixel s = .next (State.countPixels (s.setRun (s.run + 1)) 1)) ∨
    (∃ px, s.nextPixel = some px ∧ px ≠ s.prev ∧ encodePixel s = .next (s.coded px)) := by
  cases hp : s.nextPixel with
  | none => exact .inl ⟨rfl, encodePixel_ended hp⟩
  | some px =>
    by_cases he : px = s.prev
    · subst he
      by_cases hf : s.flushesNow
      · exact .inr (.inl ⟨rfl, hf, encodePixel_flush h hp hf⟩)
      · exact .inr (.inr (.inl ⟨rfl, hf, encodePixel_count h hp hf⟩))
    · exact .inr (.inr (.inr ⟨px, rfl, he, encodePixel_change h hp he⟩))

end Sys2Proof.Machine
end

