-- ==== Sys2Proof/Laws/PerInstr.lean ====
section
/-! SUPPORT. Facts of every instruction as syntax, one lemma for each constructor. Family EncodeLength: the packer's byte
list of a record has the record's length (`30_encoding.md` R50, R57, R58). -/

namespace Sys2Proof.Laws.EncodeLength

open Sys2Proof

def Statement (i : Instr) : Prop := (encode i).length = i.length

theorem rgba (r g b a : Byte) : Statement (.rgba r g b a) := rfl
theorem rgb (r g b : Byte) : Statement (.rgb r g b) := rfl
theorem run (len : Nat) : Statement (.run len) := rfl
theorem index (i : Slot) : Statement (.index i) := rfl
theorem diff (dr dg db : Int) : Statement (.diff dr dg db) := rfl
theorem luma (dg drg dbg : Int) : Statement (.luma dg drg dbg) := rfl
theorem header (magic w h : Word) (c s : Byte) : Statement (.header magic w h c s) := rfl
theorem endMark : Statement .endMark := rfl

end Sys2Proof.Laws.EncodeLength
end

