-- ==== Sys2Proof/Laws/Step.lean ====
section
/-! SUPPORT. What a meaning and a step can do, said once: inversion lemmas that later proofs cite instead of unfolding
`exec` and `step`. -/

namespace Sys2Proof.Machine

open Sys2Proof

variable {s t : State}

/-! ### The meanings -/

/-- What a decoder meaning that goes on has done: the state after, by kind of record. -/
inductive ExecDone (s : State) : Instr → State → Prop where
  | runPut (len : Nat) (h1 : 1 ≤ len) (h2 : len ≤ 62) (room : len ≤ s.npix.toNat - s.pcnt.toNat) :
      ExecDone s (.run len) (((s.putPixels len s.prev).countPixels len).advance 1)
  | runPast (len : Nat) (room : s.npix.toNat - s.pcnt.toNat < len) :
      ExecDone s (.run len) (s.raise .pixelCountMismatch)
  | index (j : Slot) : ExecDone s (.index j) (s.yield (s.slot j) 1)
  | diff (dr dg db : Int) : ExecDone s (.diff dr dg db) (s.storeAndYield (diffPixel dr dg db s.prev) 1)
  | luma (dg drg dbg : Int) : ExecDone s (.luma dg drg dbg) (s.storeAndYield (lumaPixel dg drg dbg s.prev) 2)
  | rgb (r g b : Byte) : ExecDone s (.rgb r g b) (s.storeAndYield ⟨r, g, b, s.prev.a⟩ 4)
  | rgba (r g b a : Byte) : ExecDone s (.rgba r g b a) (s.storeAndYield ⟨r, g, b, a⟩ 5)
  | header (magic w h : Word) (c cs : Byte) (hm : magic = s.params.magic) (hl : legalDescriptor w h c cs = true) :
      ExecDone s (.header magic w h c cs) (((s.setDescriptor ⟨w, h, c, cs⟩).setPos 14).setPhase .body)
  | headerBad (magic w h : Word) (c cs : Byte) (hb : ¬(magic = s.params.magic ∧ legalDescriptor w h c cs = true)) :
      ExecDone s (.header magic w h c cs) (s.raise .malformedHeader)
  | endOk (he : ¬(s.params.strictEos ∧ s.len - s.bpos > 8)) : ExecDone s .endMark ((s.advance 8).setPhase .done)
  | endBad (he : s.params.strictEos ∧ s.len - s.bpos > 8) : ExecDone s .endMark (s.raise .missingEndMarker)

/-- A meaning goes on only in a decode pass, in the phase of its record, with operands in range, and then in one of the
ways of `ExecDone`. -/
theorem exec_next {i : Instr} (h : exec i s = .next t) :
    i.wellFormed = true ∧ s.mode = .decode ∧ s.phase = placePhase i.place ∧ ExecDone s i t := by
  cases i with
  | rgba r g b a =>
    rw [show exec _ s = execRgba r g b a s from rfl] at h
    unfold execRgba at h
    obtain ⟨hw, hm, hp, e | ⟨k, e, -⟩⟩ := decoderStep_next h <;> simp at e
    exact ⟨hw, hm, hp, e ▸ .rgba r g b a⟩
  | rgb r g b =>
    rw [show exec _ s = execRgb r g b s from rfl] at h
    unfold execRgb at h
    obtain ⟨hw, hm, hp, e | ⟨k, e, -⟩⟩ := decoderStep_next h <;> simp at e
    exact ⟨hw, hm, hp, e ▸ .rgb r g b⟩
  | index j =>
    rw [show exec _ s = execIndex j s from rfl] at h
    unfold execIndex at h
    obtain ⟨hw, hm, hp, e | ⟨k, e, -⟩⟩ := decoderStep_next h <;> simp at e
    exact ⟨hw, hm, hp, e ▸ .index j⟩
  | diff dr dg db =>
    rw [show exec _ s = execDiff dr dg db s from rfl] at h
    unfold execDiff at h
    obtain ⟨hw, hm, hp, e | ⟨k, e, -⟩⟩ := decoderStep_next h <;> simp at e
    exact ⟨hw, hm, hp, e ▸ .diff dr dg db⟩
  | luma dg drg dbg =>
    rw [show exec _ s = execLuma dg drg dbg s from rfl] at h
    unfold execLuma at h
    obtain ⟨hw, hm, hp, e | ⟨k, e, -⟩⟩ := decoderStep_next h <;> simp at e
    exact ⟨hw, hm, hp, e ▸ .luma dg drg dbg⟩
  | run len =>
    rw [show exec _ s = execRun len s from rfl] at h
    unfold execRun at h
    obtain ⟨hw, hm, hp, e | ⟨k, e, e'⟩⟩ := decoderStep_next h
    · split at e
      · simp at e
      · simp only [Except.ok.injEq] at e
        have hl := (wellFormed_run len).1 hw
        exact ⟨hw, hm, hp, e ▸ .runPut len hl.1 hl.2 (by omega)⟩
    · split at e
      · simp only [Except.error.injEq] at e
        exact ⟨hw, hm, hp, e' ▸ e ▸ .runPast len (by omega)⟩
      · simp at e
  | header magic w hh c cs =>
    rw [show exec _ s = execHeader magic w hh c cs s from rfl] at h
    unfold execHeader at h
    obtain ⟨hw, hm, hp, e | ⟨k, e, e'⟩⟩ := decoderStep_next h
    · split at e
      · rename_i hl
        simp only [Except.ok.injEq] at e
        exact ⟨hw, hm, hp, e ▸ .header magic w hh c cs hl.1 hl.2⟩
      · simp at e
    · split at e
      · simp at e
      · rename_i hl
        simp only [Except.error.injEq] at e
        exact ⟨hw, hm, hp, e' ▸ e ▸ .headerBad magic w hh c cs hl⟩
  | endMark =>
    rw [show exec _ s = execEnd s from rfl] at h
    unfold execEnd at h
    obtain ⟨hw, hm, hp, e | ⟨k, e, e'⟩⟩ := decoderStep_next h
    · split at e
      · simp at e
      · rename_i hl
        simp only [Except.ok.injEq] at e
        exact ⟨hw, hm, hp, e ▸ .endOk hl⟩
    · split at e
      · rename_i hl
        simp only [Except.error.injEq] at e
        exact ⟨hw, hm, hp, e' ▸ e ▸ .endBad hl⟩
      · simp at e

/-- Every meaning is a decoder step of its record, in the phase of its place. -/
theorem exec_is_decoderStep (i : Instr) (s : State) :
    ∃ e, exec i s = decoderStep i s e := by
  cases i <;> exact ⟨_, rfl⟩

/-- A meaning faults exactly outside its mode and phase. -/
theorem exec_fault_iff (i : Instr) (s : State) (r : Fault) :
    exec i s = .fault r ↔ i.wellFormed = true ∧ ¬(s.mode = .decode ∧ s.phase = placePhase i.place) := by
  obtain ⟨e, he⟩ := exec_is_decoderStep i s
  rw [he, decoderStep_fault_iff]

/-- A meaning is refused exactly for a term that is no record. -/
theorem exec_refused_iff (i : Instr) (s : State) (r : Refusal) :
    exec i s = .refused r ↔ i.wellFormed = false ∧ r = .operandOutOfRange := by
  obtain ⟨e, he⟩ := exec_is_decoderStep i s
  rw [he, decoderStep_refused_iff]

/-- In its mode and phase every record runs. -/
theorem exec_completes {i : Instr} (hw : i.wellFormed = true) (hm : s.mode = .decode)
    (hp : s.phase = placePhase i.place) : ∃ t, exec i s = .next t := by
  cases he : exec i s with
  | next t => exact ⟨t, rfl⟩
  | fault r => exact absurd ((exec_fault_iff i s r).1 he).2 (not_not.2 ⟨hm, hp⟩)
  | refused r => exact absurd ((exec_refused_iff i s r).1 he).1 (by simp [hw])

/-! ### The step -/

theorem step_of_offered {c : Command} (h : s.offered = some c) : step s = command c s.boundary := by
  simp [step, h]

theorem step_of_quiet (h : s.offered = none) : step s = passStep s.boundary := by
  simp [step, h]

/-- What a step of the pass that goes on has done, on the state `s` at the boundary. -/
inductive PassDone (s : State) : State → Prop where
  | wait (h : s.phase.active = false) : PassDone s s
  | encodeHeader {t : State} (hm : s.mode = .encode) (hp : s.phase = .header) (h : encodeHeader s = .next t) :
      PassDone s t
  | encodePixel {t : State} (hm : s.mode = .encode) (hp : s.phase = .body) (h : encodePixel s = .next t) :
      PassDone s t
  | encodeTrailer {t : State} (hm : s.mode = .encode) (hp : s.phase = .trailer) (h : encodeTrailer s = .next t) :
      PassDone s t
  | decodeRaise (k : ErrKind) (hm : s.mode = .decode) (ha : s.phase.active = true) (h : fetch s = .error k) :
      PassDone s (s.raise k)
  | decodeExec {t : State} (i : Instr) (hm : s.mode = .decode) (ha : s.phase.active = true) (h : fetch s = .ok i)
      (he : exec i s = .next t) : PassDone s t

theorem passStep_next (h : passStep s = .next t) : PassDone s t := by
  unfold passStep at h
  split at h
  · rename_i ha
    split at h
    · rename_i hm
      unfold encodeStep at h
      split at h
      · exact .encodeHeader hm ‹_› h
      · exact .encodePixel hm ‹_› h
      · exact .encodeTrailer hm ‹_› h
      all_goals (rename_i hp; simp [hp, Phase.active] at ha)
    · rename_i hm
      unfold decodeStep at h
      split at h
      · exact .decodeExec _ hm ha ‹_› h
      · cases h; exact .decodeRaise _ hm ha ‹_›
  · rename_i ha; cases h; exact .wait (by simpa using ha)

/-- A step that goes on: the host's command, or a step of the pass. -/
theorem step_next (h : step s = .next t) :
    (∃ c, s.offered = some c ∧ command c s.boundary = .next t) ∨ (s.offered = none ∧ PassDone s.boundary t) := by
  cases ho : s.offered with
  | some c => exact .inl ⟨c, rfl, step_of_offered ho ▸ h⟩
  | none => exact .inr ⟨rfl, passStep_next (step_of_quiet ho ▸ h)⟩

end Sys2Proof.Machine
end

