-- ==== Sys2Proof/Laws/Run.lean ====
section
/-! SUPPORT. Runs of several steps: one step first, or two runs one after the other; the phases of the places. -/

namespace Sys2Proof.Machine

open Sys2Proof

variable {s t u : State}

@[simp] theorem placePhase_header : placePhase .header = .header := rfl
@[simp] theorem placePhase_chunk : placePhase .chunk = .body := rfl
@[simp] theorem placePhase_trailer : placePhase .trailer = .trailer := rfl

theorem next_inj {s t : State} : (Host.Outcome.next s : Outcome) = .next t ↔ s = t :=
  ⟨fun h => by cases h; rfl, fun h => by rw [h]⟩

@[simp] theorem runsTo_zero : runsTo 0 s t ↔ s = t := next_inj


theorem core_run_succ (n : Nat) (s : State) : Host.Core.run Sys2Proof.core (n + 1) s =
    andThen (step s) (Host.Core.run Sys2Proof.core n) := by
  refine (Host.Core.run.eq_2 Sys2Proof.core s n).trans ?_
  have h : Sys2Proof.core.step s = step s := rfl
  cases hs : step s <;> (rw [h.trans hs]; rfl)

/-- A run begins with one step. -/
theorem runsTo_succ {n : Nat} : runsTo (n + 1) s u ↔ ∃ t, step s = .next t ∧ runsTo n t u := by
  unfold runsTo
  rw [core_run_succ]
  exact andThen_eq_next

/-- Runs chain. -/
theorem runsTo_add {n m : Nat} (h : runsTo n s t) (h' : runsTo m t u) : runsTo (n + m) s u := by
  induction n generalizing s with
  | zero => rw [runsTo_zero.1 h, Nat.zero_add]; exact h'
  | succ n ih =>
    obtain ⟨v, hs, hv⟩ := runsTo_succ.1 h
    rw [Nat.succ_add]
    exact runsTo_succ.2 ⟨v, hs, ih hv⟩

theorem runsTo_one : runsTo 1 s t ↔ step s = .next t := by
  rw [runsTo_succ]
  constructor
  · rintro ⟨v, hs, hv⟩; rw [hs, runsTo_zero.1 hv]
  · intro h; exact ⟨t, h, runsTo_zero.2 rfl⟩

end Sys2Proof.Machine
end

