-- ==== Sys2Proof/Tests/Slice0.lean ====
section
/-! SUPPORT. The model's own tests: the refusals of WellFormed, decoding of bytes written out from the layouts, one step
per record on a small state, and a witness for the hypotheses of each statement. Expected results are those of
`95_test_vectors.md` (its part and row are cited) or are worked out by hand from the rule cited. -/

namespace Sys2Proof.Tests

open Sys2Proof Sys2Proof.Machine

/-! ### Helpers -/

/-- The outcome is a next state with the property. -/
def nextIs (o : Outcome) (p : State → Bool) : Bool :=
  match o with
  | .next t => p t
  | .fault _ => false
  | .refused _ => false

/-- Opaque black. -/
def black : Pixel := ⟨0, 0, 0, 255⟩

/-- The pixel of the rows of part B5. -/
def grey : Pixel := ⟨100, 100, 100, 255⟩

/-- A decode pass that stands before these bytes, `w` pixels declared and none produced. -/
def decoding (w : Word) (bs : List Byte) : State :=
  { State.reset with mode := .decode, phase := .body, width := w, height := 1, channels := 4, byteIn := bs }

/-- A decode pass that stands before the header. -/
def parsing (bs : List Byte) : State := { State.reset with mode := .decode, phase := .header, byteIn := bs }

/-- A decode pass whose one pixel is produced. -/
def finishing (bs : List Byte) : State := { decoding 1 bs with phase := .trailer, pcnt := 1 }

/-- An encode pass after its header, `w` pixels declared and none taken. -/
def encoding (w : Word) (pixels : List Pixel) : State :=
  { State.reset with phase := .body, width := w, height := 1, channels := 4, pixIn := pixels.map wordOfPixel }

/-- The pass of part B5 after its first pixel. -/
def afterGrey (px : Pixel) : State :=
  { (encoding 2 [grey, px]).store grey with prev := grey, pcnt := 1 }

/-- The bytes a step adds to BYTE_OUT of a state that has put none. -/
def emits (s : State) (bs : List Byte) : Bool := nextIs (step s) fun t => decide (t.byteOut = bs)

/-- A step that yields this pixel as the last one of the image, stores it in this slot and passes `n` bytes. -/
def yields (s : State) (px : Pixel) (j : Slot) (n : Nat) : Bool := nextIs (step s) fun t =>
  decide (t.pixOut = s.pixOut ++ [wordOfPixel px]) && decide (t.prev = px) && decide (t.slot j = px) &&
    decide (t.bpos = s.bpos + n) && decide (t.phase = .trailer)

/-- A step that raises this kind and puts nothing. -/
def raises (s : State) (k : ErrKind) : Bool := nextIs (step s) fun t =>
  decide (t.phase = .error) && decide (t.err = some k) && decide (t.bpos = s.bpos) && decide (t.pixOut = s.pixOut) &&
    decide (t.pcnt = s.pcnt) && decide (t.byteOut = s.byteOut)

/-! ### WellFormed -/

/-- `30_encoding.md` R59: RUN lengths 63 and 64 do not exist, and 0 is no length. -/
theorem test_illFormed_run : (Instr.run 0).wellFormed = false ∧ (Instr.run 63).wellFormed = false := by decide

/-- `30_encoding.md` R50, R53: each of the three deltas is in -2..1. -/
theorem test_illFormed_diff :
    (Instr.diff (-3) 0 0).wellFormed = false ∧ (Instr.diff 2 0 0).wellFormed = false ∧
    (Instr.diff 0 (-3) 0).wellFormed = false ∧ (Instr.diff 0 2 0).wellFormed = false ∧
    (Instr.diff 0 0 (-3)).wellFormed = false ∧ (Instr.diff 0 0 2).wellFormed = false := by decide

/-- `30_encoding.md` R50, R54: the green delta is in -32..31, the other two in -8..7. -/
theorem test_illFormed_luma :
    (Instr.luma (-33) 0 0).wellFormed = false ∧ (Instr.luma 32 0 0).wellFormed = false ∧
    (Instr.luma 0 (-9) 0).wellFormed = false ∧ (Instr.luma 0 8 0).wellFormed = false ∧
    (Instr.luma 0 0 (-9)).wellFormed = false ∧ (Instr.luma 0 0 8).wellFormed = false := by decide

/-- The packer and the meanings refuse such terms. -/
theorem test_illFormed_refused : pack (.run 63) = none ∧ pack (.diff 2 0 0) = none ∧ pack (.luma 0 8 0) = none ∧
    exec (.run 63) (decoding 1 []) = .refused .operandOutOfRange :=
  ⟨by decide, by decide, by decide, rfl⟩

/-! ### Decoding: bytes written out bit by bit from `30_encoding.md` -/

/-- RUN: tag 11, the length less one in six bits (B4). -/
theorem test_decode_run : decodeChunk [0b11000000] = .ok (.run 1, []) ∧ decodeChunk [0b11111101] = .ok (.run 62, []) := by
  decide

/-- INDEX: tag 00, the bucket in six bits (B4). -/
theorem test_decode_index : decodeChunk [0b00110101] = .ok (.index 53, []) ∧ decodeChunk [0b00111111] = .ok (.index 63, []) := by
  decide

/-- DIFF: tag 01, three fields of two bits with bias 2 (B4, `Diff(-2,0,1)` and `Diff(1,-2,1)`). -/
theorem test_decode_diff : decodeChunk [0b01001011] = .ok (.diff (-2) 0 1, []) ∧
    decodeChunk [0b01110011] = .ok (.diff 1 (-2) 1, []) := by decide

/-- LUMA: tag 10, green with bias 32, then two fields of four bits with bias 8 (B4, `Luma(16,-5,-5)` and `Luma(0,2,0)`). -/
theorem test_decode_luma : decodeChunk [0b10110000, 0b00110011] = .ok (.luma 16 (-5) (-5), []) ∧
    decodeChunk [0b10100000, 0b10101000] = .ok (.luma 0 2 0, []) := by decide

/-- RGB: tag 11111110, then r, g, b (B4). -/
theorem test_decode_rgb : decodeChunk [0b11111110, 255, 254, 253, 7] = .ok (.rgb 255 254 253, [7]) := by decide

/-- RGBA: tag 11111111, then r, g, b, a (B6). -/
theorem test_decode_rgba : decodeChunk [0b11111111, 1, 2, 3, 4] = .ok (.rgba 1 2 3 4, []) := by decide

/-- HEADER: magic, two big-endian words, channels, colorspace (B4, `Header(256,65536,4,0)`). -/
theorem test_decode_header : decodeHeader [0x71, 0x6F, 0x69, 0x66, 0, 0, 1, 0, 0, 1, 0, 0, 4, 0] =
    .ok (.header 0x716F6966 256 65536 4 0, []) := by decide

/-- END: seven zero bytes, then a one (B4); one byte short is none (X15). -/
theorem test_decode_end : decodeEnd [0, 0, 0, 0, 0, 0, 0, 1, 9] = .ok (.endMark, [9]) ∧
    decodeEnd [0, 0, 0, 0, 0, 0, 0] = .error .noEndMarker := by decide

/-- The tag boundaries of B4: 3F INDEX, 40 and 7F DIFF, 80 and BF LUMA, C0 and FD RUN. -/
theorem test_decode_tag_boundaries :
    decodeChunk [0x40, 0] = .ok (.diff (-2) (-2) (-2), [0]) ∧ decodeChunk [0x7F, 0] = .ok (.diff 1 1 1, [0]) ∧
    decodeChunk [0x80, 0] = .ok (.luma (-32) (-8) (-8), []) ∧ decodeChunk [0xBF, 0xFF] = .ok (.luma 31 7 7, []) := by
  decide

/-- The words of the opcode table, the first byte in bits 7 to 0 (records of B4 and B6). -/
theorem test_table_words :
    decodeTableWord 40 0x04030201FF = some (.rgba 1 2 3 4) ∧ decodeTableWord 32 0xFDFEFFFE = some (.rgb 255 254 253) ∧
    decodeTableWord 8 0xC6 = some (.run 7) ∧ decodeTableWord 8 0x35 = some (.index 53) ∧
    decodeTableWord 8 0x4B = some (.diff (-2) 0 1) ∧ decodeTableWord 16 0x83A0 = some (.luma 0 0 (-5)) ∧
    decodeTableWord 112 0x4010000000C00000066696F71 = some (.header 0x716F6966 12 1 4 0) ∧
    decodeTableWord 64 0x100000000000000 = some .endMark ∧ decodeTableWord 64 0 = none := by decide

/-- A placed word is what the very next step runs: a chunk, the header, the end marker. -/
theorem test_placed_words_run :
    nextIs (step (State.reset.withFetchWord 16 0x83A0)) (fun t => decide (t.prev = ⟨0, 0, 251, 255⟩)) = true ∧
    nextIs (step (State.reset.withFetchWord 8 0xFD)) (fun t => decide (t.pcnt = 62)) = true ∧
    nextIs (step (State.reset.withFetchWord 112 0x4010000000C00000066696F71)) (fun t => decide (t.width = 12)) = true ∧
    nextIs (step (State.reset.withFetchWord 64 0x100000000000000)) (fun t => decide (t.phase = .done)) = true := by
  decide

/-! ### One step of the decoder -/

/-- B6: `Run(3)` puts the previous pixel three times. -/
theorem test_run_decoded : nextIs (step (decoding 3 [0xC2])) (fun t =>
    decide (t.pixOut = List.replicate 3 (wordOfPixel black)) && decide (t.pcnt = 3) && decide (t.bpos = 1) &&
      decide (t.phase = .trailer) && decide (t.cache = State.reset.cache)) = true := by decide

/-- X13: `Run(3)` with two pixels missing puts none. -/
theorem test_run_past_the_image : raises (decoding 2 [0xC2]) .pixelCountMismatch = true := by decide

/-- P4: `Index(9)` yields the pixel stored in slot 9. -/
theorem test_index_decoded :
    yields ((decoding 1 [0x09]).store ⟨10, 20, 30, 255⟩) ⟨10, 20, 30, 255⟩ 9 1 = true := by decide

/-- B6: `Diff(-2,-2,-2)` after black wraps below zero. -/
theorem test_diff_decoded : yields (decoding 1 [0x40]) ⟨254, 254, 254, 255⟩ 23 1 = true := by decide

/-- B6: `Luma(-32,-8,-8)` after black. -/
theorem test_luma_decoded : yields (decoding 1 [0x80, 0x00]) ⟨216, 224, 216, 255⟩ 5 2 = true := by decide

/-- B6: `RGB(9,8,7)` keeps the alpha 4 of the pixel before. -/
theorem test_rgb_decoded :
    yields { decoding 1 [0xFE, 9, 8, 7] with prev := ⟨1, 2, 3, 4⟩ } ⟨9, 8, 7, 4⟩ 32 4 = true := by decide

/-- B6: `RGBA(1,2,3,4)`. -/
theorem test_rgba_decoded : yields (decoding 1 [0xFF, 1, 2, 3, 4]) ⟨1, 2, 3, 4⟩ 14 5 = true := by decide

/-- B4 and R152: the fields of `Header(256,65536,4,0)` reach their registers. -/
theorem test_header_decoded : nextIs (step (parsing [0x71, 0x6F, 0x69, 0x66, 0, 0, 1, 0, 0, 1, 0, 0, 4, 0])) (fun t =>
    decide (t.width = 256) && decide (t.height = 65536) && decide (t.channels = 4) && decide (t.colorspace = 0) &&
      decide (t.bpos = 14) && decide (t.phase = .body)) = true := by decide

/-- X3 to X7: one wrong byte each in the magic, the width, the height, the channels and the colorspace. -/
theorem test_header_raises :
    raises (parsing [0x71, 0x6F, 0x69, 0x67, 0, 0, 0, 1, 0, 0, 0, 1, 4, 0]) .malformedHeader = true ∧
    raises (parsing [0x71, 0x6F, 0x69, 0x66, 0, 0, 0, 0, 0, 0, 0, 1, 4, 0]) .malformedHeader = true ∧
    raises (parsing [0x71, 0x6F, 0x69, 0x66, 0, 0, 0, 1, 0, 0, 0, 0, 4, 0]) .malformedHeader = true ∧
    raises (parsing [0x71, 0x6F, 0x69, 0x66, 0, 0, 0, 1, 0, 0, 0, 1, 2, 0]) .malformedHeader = true ∧
    raises (parsing [0x71, 0x6F, 0x69, 0x66, 0, 0, 0, 1, 0, 0, 0, 1, 4, 2]) .malformedHeader = true := by decide

/-- X19: the marker with nothing after it ends the pass. -/
theorem test_end_decoded : nextIs (step (finishing [0, 0, 0, 0, 0, 0, 0, 1])) (fun t =>
    decide (t.phase = .done) && decide (t.err = none) && decide (t.bpos = 8)) = true := by decide

/-- X14 to X18: no marker, a cut marker, a wrong one, a chunk in its place, a byte after it. -/
theorem test_end_raises :
    raises (finishing []) .missingEndMarker = true ∧
    raises (finishing [0, 0, 0, 0, 0, 0, 0]) .missingEndMarker = true ∧
    raises (finishing [0, 0, 0, 0, 0, 0, 0, 0]) .missingEndMarker = true ∧
    raises (finishing [0xC0, 0, 0, 0, 0, 0, 0, 0, 1]) .missingEndMarker = true ∧
    raises (finishing [0, 0, 0, 0, 0, 0, 0, 1, 0]) .missingEndMarker = true := by decide

/-- X1, X2, X8 to X11: streams cut short in the header and in each chunk of several bytes. -/
theorem test_cut_short_raises :
    raises (parsing []) .truncatedStream = true ∧
    raises (parsing [0x71, 0x6F, 0x69, 0x66, 0, 0, 0, 1, 0, 0, 0, 1, 4]) .truncatedStream = true ∧
    raises (decoding 1 []) .truncatedStream = true ∧ raises (decoding 1 [0xFF, 1, 2, 3]) .truncatedStream = true ∧
    raises (decoding 1 [0xFE, 1, 2]) .truncatedStream = true ∧ raises (decoding 1 [0x80]) .truncatedStream = true := by
  decide

/-! ### One step of the encoder: the rows of part B5 -/

/-- 4a, both bounds. -/
theorem test_diff_encoded : emits (afterGrey ⟨98, 98, 98, 255⟩) [0x40] = true ∧
    emits (afterGrey ⟨101, 101, 101, 255⟩) [0x7F] = true := by decide

/-- 4b, all lower bounds, all upper bounds, and red one beyond DIFF. -/
theorem test_luma_encoded : emits (afterGrey ⟨60, 68, 60, 255⟩) [0x80, 0x00] = true ∧
    emits (afterGrey ⟨138, 131, 138, 255⟩) [0xBF, 0xFF] = true ∧
    emits (afterGrey ⟨97, 100, 100, 255⟩) [0xA0, 0x58] = true := by decide

/-- 4c: dg = 32, drg = 8, drg = -9. -/
theorem test_rgb_encoded : emits (afterGrey ⟨132, 132, 132, 255⟩) [0xFE, 0x84, 0x84, 0x84] = true ∧
    emits (afterGrey ⟨108, 100, 100, 255⟩) [0xFE, 0x6C, 0x64, 0x64] = true ∧
    emits (afterGrey ⟨91, 100, 100, 255⟩) [0xFE, 0x5B, 0x64, 0x64] = true := by decide

/-- 4d: alpha changed though DIFF would fit. -/
theorem test_rgba_encoded : emits (afterGrey ⟨101, 100, 100, 0⟩) [0xFF, 0x65, 0x64, 0x64, 0x00] = true := by decide

/-- Rule 3 (B5, third short encoding): an index hit although the alpha differs from PREV. -/
theorem test_index_encoded :
    emits { encoding 1 [black] with prev := ⟨0, 0, 0, 254⟩ } [0x35] = true := by decide

/-- Rule 1 (B5): the final pixel flushes, the 62nd flushes, an earlier one does not; and P2: rule 2 flushes in front of the
chunk. -/
theorem test_run_encoded : emits (afterGrey grey) [0xC0] = true ∧
    emits { encoding 63 [] with pixIn := List.replicate 63 (wordOfPixel black), pcnt := 61, run := 61 } [0xFD] = true ∧
    emits (encoding 2 [black, black]) [] = true ∧
    emits { encoding 7 [] with pixIn := List.replicate 6 (wordOfPixel black) ++ [wordOfPixel ⟨1, 1, 1, 255⟩], pcnt := 6, run := 6 }
      [0xC5, 0x7F] = true := by decide

/-- P1 and B5: the header of (12,1,4,0); a width of zero raises. -/
theorem test_header_encoded :
    emits { encoding 12 [] with phase := .header } [0x71, 0x6F, 0x69, 0x66, 0, 0, 0, 12, 0, 0, 0, 1, 4, 0] = true ∧
    raises { encoding 0 [] with phase := .header } .malformedHeader = true := by decide

/-- B5: the end marker when the source has ended, the length errors otherwise. -/
theorem test_end_encoded :
    emits { encoding 1 [black] with phase := .trailer, pcnt := 1 } [0, 0, 0, 0, 0, 0, 0, 1] = true ∧
    raises { encoding 1 [black, black] with phase := .trailer, pcnt := 1 } .pixelCountMismatch = true ∧
    raises { encoding 2 [black] with pcnt := 1 } .pixelCountMismatch = true := by decide

/-! ### The operations: parts B1, B2 and B3 -/

/-- B1: the hash, with the maximum and the collisions. -/
theorem test_hash : pixelHash ⟨255, 255, 255, 255⟩ = 38 ∧ pixelHash ⟨0, 0, 0, 1⟩ = 11 ∧ pixelHash ⟨0, 0, 1, 0⟩ = 7 ∧
    pixelHash ⟨10, 20, 30, 255⟩ = 9 ∧ pixelHash ⟨74, 20, 30, 255⟩ = 9 ∧ pixelHash ⟨128, 64, 32, 16⟩ = 16 := by decide

/-- B2: lookups of a reset cache, a store, and an eviction. -/
theorem test_cache : State.reset.lookup black = true ∧ State.reset.lookup ⟨0, 0, 0, 0⟩ = false ∧
    (State.reset.store ⟨64, 0, 0, 255⟩).lookup black = false := by decide

/-- B3: wrapped deltas, the last row but three from (250,250,250,255) to (5,10,5,255), and -128. -/
theorem test_deltas : deltas ⟨5, 10, 5, 255⟩ ⟨250, 250, 250, 255⟩ = ⟨11, 16, 11, -5, -5⟩ ∧
    deltas ⟨0, 0, 0, 255⟩ ⟨128, 0, 0, 255⟩ = ⟨-128, 0, 0, -128, 0⟩ ∧
    diffOk ⟨0, 0, 0, 255⟩ ⟨255, 255, 255, 255⟩ = true ∧ lumaOk ⟨100, 100, 100, 254⟩ grey = false := by decide

/-- `20_memory.md` R31 and S1: the word 0xFFAAAFAF is the pixel (175,175,170,255). -/
theorem test_port_word : pixelOfWord 0xFFAAAFAF = ⟨175, 175, 170, 255⟩ ∧ wordOfPixel ⟨1, 2, 3, 4⟩ = 0x04030201 := by
  decide

/-- `10_state.md` R16 to R18: the codes of a failed decode pass. -/
theorem test_status : (({ decoding 1 [] with phase := .error, err := some .missingEndMarker } : State).status =
    ⟨5, 3, ⟨1, 1, 4, 0⟩⟩) ∧ Mode.decode.code = 1 ∧ errCode (some .pixelCountMismatch) = 4 := by decide

/-! ### Witnesses: for each statement with hypotheses, values that meet them -/

/-- States that meet the invariant at the first pixel of an encode pass. -/
theorem inv_encoding (w : Word) (hw : w ≠ 0) (pixels : List Pixel) (cs : List (Option Command)) :
    ({ encoding w pixels with cmdIn := cs } : State).Inv := by
  have hl : ({ encoding w pixels with cmdIn := cs } : State).descriptor.legal = true :=
    (legalDescriptor_iff w 1 4 0).2 ⟨hw, by decide, .inr rfl, .inl rfl⟩
  have hn := State.npix_pos hl
  constructor <;> first
    | exact fun _ => hl
    | exact fun _ => hn
    | simp [encoding, State.reset, State.inPass, State.slot, Vector.get_eq_getElem, Config.defaultPixel]

/-- States that meet the invariant at the first chunk of a decode pass, two pixels declared. -/
theorem inv_decoding (bs : List Byte) :
    ({ decoding 2 (List.replicate 14 0 ++ bs) with bpos := 14 } : State).Inv := by
  constructor <;> simp [decoding, State.reset, State.inPass, State.slot, Vector.get_eq_getElem, State.npix, State.len,
    Config.defaultPixel, Descriptor.legal, State.descriptor, legalDescriptor]

/-- The host presents a command at the next boundary. -/
def offering (s : State) (c : Command) : State := { s with cmdIn := [some c] }

theorem witness_DecodeOfEncodedRecord : (Instr.run 62).wellFormed = true ∧ (Instr.diff (-2) 1 0).wellFormed = true ∧
    (Instr.luma (-32) 7 (-8)).wellFormed = true := by decide

theorem witness_EncodeOfDecodedBytes : decodeAt .chunk [0xA0, 0x83, 7] = .ok (.luma 0 0 (-5), [7]) := by decide

theorem witness_PackedBytesOfEveryRecord : ((1 : Nat) ≤ 62 ∧ (62 : Nat) ≤ 62) ∧ ((-2 : Int) ≤ -2 ∧ (-2 : Int) ≤ 1) ∧
    ((-32 : Int) ≤ 31 ∧ (31 : Int) ≤ 31) ∧ ((-8 : Int) ≤ 7 ∧ (7 : Int) ≤ 7) := by decide

theorem witness_PackerRefusesOutOfRange : (Instr.index 63).wellFormed = true := by decide

/-- A header, a chunk and the end marker. -/
theorem witness_StepRunsTheDecodedRecord :
    (let s := parsing [0x71, 0x6F, 0x69, 0x66, 0, 0, 0, 1, 0, 0, 0, 1, 4, 0]
     s.offered = none ∧ s.mode = .decode ∧ s.phase = placePhase .header ∧
      decodeAt .header (s.unread 0) = .ok (.header 0x716F6966 1 1 4 0, [])) ∧
    (let s := decoding 3 [0xC2, 0xC3]
     s.offered = none ∧ s.mode = .decode ∧ s.phase = placePhase .chunk ∧
      decodeAt .chunk (s.unread s.bpos) = .ok (.run 3, [0xC3])) ∧
    (let s := finishing [0, 0, 0, 0, 0, 0, 0, 1]
     s.offered = none ∧ s.mode = .decode ∧ s.phase = placePhase .trailer ∧
      decodeAt .trailer (s.unread s.bpos) = .ok (.endMark, [])) := by decide

/-- No byte; each length one byte short; each length exactly. -/
theorem witness_CutShortChunkRaises :
    (let s := decoding 1 []
     s.offered = none ∧ s.mode = .decode ∧ s.phase = .body ∧ s.len ≤ s.bpos) ∧
    (let s := decoding 1 [0xFF, 1, 2, 3]
     s.byteIn[s.bpos]? = some 0xFF ∧ s.len < s.bpos + 5) ∧
    (let s := decoding 1 [0xFE, 1, 2]
     s.byteIn[s.bpos]? = some 0xFE ∧ s.len < s.bpos + 4) ∧
    (let s := decoding 1 [0x80]
     s.byteIn[s.bpos]? = some 0x80 ∧ (0x80 : Byte).toNat / 64 = 2 ∧ s.len < s.bpos + 2) ∧
    (let s := decoding 1 [0xFF, 1, 2, 3, 4]
     s.byteIn[s.bpos]? = some 0xFF ∧ s.bpos + 5 ≤ s.len) ∧
    (let s := decoding 1 [0xC0]
     s.byteIn[s.bpos]? = some 0xC0 ∧ s.bpos + 1 ≤ s.len) := by decide

/-- 13 bytes; 7 bytes; one byte after the marker. -/
theorem witness_CutShortFrameRaises :
    (let s := parsing (List.replicate 13 0)
     s.offered = none ∧ s.mode = .decode ∧ s.phase = .header ∧ s.len < 14) ∧
    (let s := finishing (List.replicate 7 0)
     s.offered = none ∧ s.mode = .decode ∧ s.phase = .trailer ∧
      (s.unread s.bpos).take 8 ≠ [0, 0, 0, 0, 0, 0, 0, 1]) ∧
    (let s := finishing [0, 0, 0, 0, 0, 0, 0, 1, 0]
     s.offered = none ∧ s.mode = .decode ∧ s.phase = .trailer ∧ s.params.strictEos = true ∧ s.bpos + 8 < s.len) := by
  decide

/-- The longest run that just fits, and the shortest. -/
theorem witness_RunRepeatsThePreviousPixel :
    (let s := decoding 62 []
     s.mode = .decode ∧ s.phase = .body ∧ 1 ≤ 62 ∧ 62 ≤ 62 ∧ s.pcnt.toNat + 62 ≤ s.npix.toNat) ∧
    (let s := decoding 1 []
     s.mode = .decode ∧ s.phase = .body ∧ s.pcnt.toNat + 1 ≤ s.npix.toNat) := by decide

/-- One pixel too many. -/
theorem witness_RunPastTheImageRaises :
    let s := decoding 61 []
    s.mode = .decode ∧ s.phase = .body ∧ 1 ≤ 62 ∧ 62 ≤ 62 ∧ s.npix.toNat < s.pcnt.toNat + 62 := by decide

/-- The state before a chunk, for IndexYieldsItsSlot, RgbKeepsAlpha and RgbaReplacesThePixel. -/
theorem witness_IndexYieldsItsSlot : (decoding 1 []).mode = .decode ∧ (decoding 1 []).phase = .body := by decide

theorem witness_RgbKeepsAlpha : (decoding 1 []).mode = .decode ∧ (decoding 1 []).phase = .body := by decide

theorem witness_RgbaReplacesThePixel : (decoding 1 []).mode = .decode ∧ (decoding 1 []).phase = .body := by decide

theorem witness_DiffAddsItsDeltas : (decoding 1 []).mode = .decode ∧ (decoding 1 []).phase = .body ∧
    (-2 : Int) ≤ -2 ∧ (-2 : Int) ≤ 1 ∧ (-2 : Int) ≤ 1 ∧ (1 : Int) ≤ 1 := by decide

theorem witness_LumaAddsItsDeltas : (decoding 1 []).mode = .decode ∧ (decoding 1 []).phase = .body ∧
    (-32 : Int) ≤ 31 ∧ (31 : Int) ≤ 31 ∧ (-8 : Int) ≤ -8 ∧ (-8 : Int) ≤ 7 ∧ (-8 : Int) ≤ 7 ∧ (7 : Int) ≤ 7 := by decide

theorem witness_HeaderWritesTheDescriptor : (parsing []).mode = .decode ∧ (parsing []).phase = .header ∧
    (0xFFFFFFFF : Word) ≠ 0 ∧ (1 : Word) ≠ 0 ∧ ((3 : Byte) = 3 ∨ (3 : Byte) = 4) ∧ ((1 : Byte) = 0 ∨ (1 : Byte) = 1) := by
  decide

/-- Each of the five ways. -/
theorem witness_IllegalHeaderRaises : (parsing []).mode = .decode ∧ (parsing []).phase = .header ∧
    (0x716F6967 : Word) ≠ (parsing []).params.magic ∧ (0 : Word) = 0 ∧ ((2 : Byte) ≠ 3 ∧ (2 : Byte) ≠ 4) ∧
    ((5 : Byte) ≠ 3 ∧ (5 : Byte) ≠ 4) ∧ ((2 : Byte) ≠ 0 ∧ (2 : Byte) ≠ 1) := by decide

/-- Nothing after the marker, and STRICT_EOS off with a byte after it. -/
theorem witness_EndFinishesThePass :
    (let s := finishing [0, 0, 0, 0, 0, 0, 0, 1]
     s.mode = .decode ∧ s.phase = .trailer ∧ s.len ≤ s.bpos + 8) ∧
    (let s := { finishing [0, 0, 0, 0, 0, 0, 0, 1, 7] with params := ⟨0x716F6966, .truncatedStream, false⟩ }
     s.mode = .decode ∧ s.phase = .trailer ∧ s.params.strictEos = false) := by decide

/-- A term that is no record; a record outside its phase and in another mode; each place in its phase. -/
theorem witness_MeaningStopsOnlyWhereNotEnabled : (Instr.run 63).wellFormed = false ∧
    ((Instr.run 62).wellFormed = true ∧ (finishing []).phase ≠ .body ∧ (encoding 1 []).mode ≠ .decode) ∧
    ((parsing []).phase = .header ∧ (Instr.header 0 0 0 0 0).place = .header) ∧
    ((decoding 1 []).phase = .body ∧ (Instr.index 0).place = .chunk) ∧
    ((finishing []).phase = .trailer ∧ Instr.endMark.place = .trailer) := by decide

theorem witness_StoringChunkFrame : (∃ t, exec (.diff 1 (-2) 0) (decoding 1 []) = .next t) ∧
    (∃ t, exec (.luma 31 7 (-8)) (decoding 1 []) = .next t) ∧ (∃ t, exec (.rgb 1 2 3) (decoding 1 []) = .next t) ∧
    ∃ t, exec (.rgba 1 2 3 4) (decoding 1 []) = .next t := ⟨⟨_, rfl⟩, ⟨_, rfl⟩, ⟨_, rfl⟩, _, rfl⟩

/-- A RUN that goes on, one that raises, and an INDEX. -/
theorem witness_RepeatChunkFrame : (∃ t, exec (.run 2) (decoding 2 []) = .next t ∧ t.phase ≠ .error) ∧
    (∃ t, exec (.run 2) (decoding 1 []) = .next t ∧ t.phase = .error) ∧
    ∃ t, exec (.index 63) (decoding 1 []) = .next t :=
  ⟨⟨_, rfl, by decide⟩, ⟨_, rfl, by decide⟩, _, rfl⟩

/-- A header that goes on, one that raises, an end marker that ends the pass and one that raises. -/
theorem witness_FramingRecordFrame :
    (∃ t, exec (.header 0x716F6966 1 1 3 0) (parsing []) = .next t ∧ t.phase ≠ .error) ∧
    (∃ t, exec (.header 0 1 1 3 0) (parsing []) = .next t ∧ t.phase = .error) ∧
    (∃ t, exec .endMark (finishing (List.replicate 8 0)) = .next t ∧ t.phase ≠ .error) ∧
    ∃ t, exec .endMark (finishing (List.replicate 9 0)) = .next t ∧ t.phase = .error :=
  ⟨⟨_, rfl, by decide⟩, ⟨_, rfl, by decide⟩, ⟨_, rfl, by decide⟩, _, rfl, by decide⟩

/-- A header step, a pixel step and a trailer step. -/
theorem witness_EncoderStepFrame :
    (let s := { encoding 1 [] with phase := .header }
     s.offered = none ∧ s.mode = .encode ∧ s.phase.active = true ∧ ∃ t, step s = .next t) ∧
    (let s := encoding 2 [grey, grey]
     s.offered = none ∧ s.mode = .encode ∧ s.phase.active = true ∧ s.nextPixel = some grey ∧ ∃ t, step s = .next t) ∧
    (let s := { encoding 1 [] with phase := .trailer, pcnt := 1 }
     s.offered = none ∧ s.mode = .encode ∧ s.phase.active = true ∧ ∃ t, step s = .next t) :=
  ⟨⟨rfl, rfl, rfl, _, rfl⟩, ⟨rfl, rfl, rfl, by decide, _, rfl⟩, rfl, rfl, rfl, _, rfl⟩

theorem witness_ErrorEntryWritesPhaseAndErrOnly :
    (∃ t, step (decoding 1 []) = .next t ∧ (decoding 1 []).phase ≠ .error ∧ t.phase = .error) ∧
    ∃ t, step (encoding 1 []) = .next t ∧ (encoding 1 []).phase ≠ .error ∧ t.phase = .error :=
  ⟨⟨_, rfl, by decide, by decide⟩, _, rfl, by decide, by decide⟩

/-- START and no START, in IDLE. -/
theorem witness_OnlyStartLeavesAnInactivePhase :
    (let s := offering State.reset .startDecode
     s.startOffered ∧ s.phase.active = false ∧ ∃ t, step s = .next t) ∧
    (let s := offering State.reset .abort
     ¬ s.startOffered ∧ s.phase.active = false ∧ ∃ t, step s = .next t) :=
  ⟨⟨⟨_, rfl, rfl⟩, rfl, _, rfl⟩, fun ⟨_, h, h'⟩ => (by cases h; cases h'), rfl, _, rfl⟩

theorem witness_ModeChangesOnlyByStart :
    ∃ t, step (offering State.reset .startDecode) = .next t ∧ t.mode ≠ (offering State.reset .startDecode).mode :=
  ⟨_, rfl, by decide⟩

/-- Both ways: START of an encode pass, and the decoder's header step. -/
theorem witness_DescriptorChangesOnlyAtTheStart :
    (let s := offering State.reset (.startEncode ⟨1, 1, 4, 0⟩)
     ∃ t, step s = .next t ∧ t.descriptor ≠ s.descriptor) ∧
    (let s := parsing [0x71, 0x6F, 0x69, 0x66, 0, 0, 0, 1, 0, 0, 0, 1, 4, 0]
     ∃ t, step s = .next t ∧ t.descriptor ≠ s.descriptor) := ⟨⟨_, rfl, by decide⟩, _, rfl, by decide⟩

/-- A step of each mode without START. -/
theorem witness_StreamsFlowOneWay :
    (let s := encoding 1 [grey]
     ¬ s.startOffered ∧ s.mode = .encode ∧ ∃ t, step s = .next t) ∧
    (let s := decoding 1 [0xC0]
     ¬ s.startOffered ∧ s.mode = .decode ∧ ∃ t, step s = .next t) :=
  ⟨⟨fun ⟨_, h, _⟩ => (by cases h), rfl, _, rfl⟩, fun ⟨_, h, _⟩ => (by cases h), rfl, _, rfl⟩

/-- Each of the six changes. -/
theorem witness_PhasesFollowTheSequence :
    (∃ t, step (offering State.reset .startDecode) = .next t ∧ t.phase = .header) ∧
    (∃ t, step { encoding 1 [] with phase := .header } = .next t ∧ t.phase = .body) ∧
    (∃ t, step (decoding 1 [0xC0]) = .next t ∧ t.phase = .trailer) ∧
    (∃ t, step (finishing [0, 0, 0, 0, 0, 0, 0, 1]) = .next t ∧ t.phase = .done) ∧
    (∃ t, step (decoding 1 []) = .next t ∧ t.phase = .error) ∧
    ∃ t, step (offering (decoding 1 []) .abort) = .next t ∧ t.phase = .idle :=
  ⟨⟨_, rfl, by decide⟩, ⟨_, rfl, by decide⟩, ⟨_, rfl, by decide⟩, ⟨_, rfl, by decide⟩, ⟨_, rfl, by decide⟩, _, rfl, by decide⟩

theorem witness_PositionsNeverMoveBack :
    let s : State := { decoding 2 (List.replicate 14 0 ++ [0xC1]) with bpos := 14 }
    s.Inv ∧ ¬ s.startOffered ∧ ∃ t, step s = .next t := ⟨inv_decoding _, fun ⟨_, h, _⟩ => (by cases h), _, rfl⟩

/-- A step of each mode. -/
theorem witness_EveryStepKeepsTheInvariant :
    (let s : State := { encoding 2 [grey, grey] with cmdIn := [] }
     s.Inv ∧ ∃ t, step s = .next t) ∧
    (let s : State := { decoding 2 (List.replicate 14 0 ++ [0xC1]) with bpos := 14 }
     s.Inv ∧ ∃ t, step s = .next t) := ⟨⟨inv_encoding 2 (by decide) _ _, _, rfl⟩, inv_decoding _, _, rfl⟩

/-- An active pass without START, and with it. -/
theorem witness_InvariantStatesNeverStop :
    (let s : State := { encoding 2 [] with cmdIn := [some .abort] }
     s.Inv ∧ ¬(s.phase.active = true ∧ s.startOffered)) ∧
    (let s : State := { encoding 2 [] with cmdIn := [some .startDecode] }
     s.Inv ∧ s.phase.active = true ∧ s.startOffered) :=
  ⟨⟨inv_encoding 2 (by decide) _ _, fun ⟨_, _, h, h'⟩ => (by cases h; cases h')⟩, inv_encoding 2 (by decide) _ _, rfl, _, rfl, rfl⟩

theorem witness_EveryPassEnds :
    let s : State := { encoding 2 [grey] with cmdIn := [] }
    s.Inv ∧ s.phase.active = true ∧ s.cmdIn = [] := ⟨inv_encoding 2 (by decide) _ _, rfl, rfl⟩

/-- START of each mode, in IDLE and in ERROR. -/
theorem witness_StartResetsThePass :
    (let s := offering State.reset (.startEncode ⟨1, 1, 4, 0⟩)
     s.phase.active = false ∧ s.offered = some (.startEncode ⟨1, 1, 4, 0⟩) ∧ Command.startEncode ⟨1, 1, 4, 0⟩ ≠ .abort) ∧
    (let s := offering { decoding 1 [] with phase := .error, err := some .truncatedStream } .startDecode
     s.phase.active = false ∧ s.offered = some .startDecode ∧ Command.startDecode ≠ .abort) := by decide

theorem witness_StartDuringAPassIsRefused :
    let s := offering (decoding 1 []) .startDecode
    s.phase.active = true ∧ s.offered = some .startDecode ∧ Command.startDecode ≠ .abort := by decide

/-- ABORT of an active pass and in IDLE. -/
theorem witness_AbortEndsThePass :
    ((offering (decoding 1 []) .abort).offered = some .abort ∧ (offering (decoding 1 []) .abort).phase.active = true) ∧
    ((offering State.reset .abort).offered = some .abort ∧ (offering State.reset .abort).phase.active = false) := by decide

theorem witness_InactiveCoreWaits : State.reset.phase.active = false ∧ State.reset.offered = none := by decide

/-- A slot that is not the pixel's own. -/
theorem witness_StoreReplacesItsSlot : (63 : Slot) ≠ pixelHash grey := by decide

/-- B1: two colours of bucket 9. -/
theorem witness_CollisionsEvict : (⟨10, 20, 30, 255⟩ : Pixel) ≠ ⟨74, 20, 30, 255⟩ ∧
    pixelHash ⟨10, 20, 30, 255⟩ = pixelHash ⟨74, 20, 30, 255⟩ := by decide

theorem witness_LookupComparesItsSlot :
    (offering State.reset .startDecode).startOffered ∧ ∃ t, step (offering State.reset .startDecode) = .next t :=
  ⟨⟨_, rfl, rfl⟩, _, rfl⟩

/-- B3: a pair that fits LUMA by a wrap. -/
theorem witness_DeltasRestoreThePixel : (⟨5, 10, 5, 255⟩ : Pixel).a = (⟨250, 250, 250, 255⟩ : Pixel).a ∧
    lumaOk ⟨5, 10, 5, 255⟩ ⟨250, 250, 250, 255⟩ = true := by decide

/-- B3: a pair that fits DIFF, and both ends of the green range. -/
theorem witness_LumaTestNeedsNoWrap : diffOk ⟨98, 98, 98, 255⟩ grey = true ∧
    (deltas ⟨60, 68, 60, 255⟩ grey).dg = -32 ∧ (deltas ⟨138, 131, 138, 255⟩ grey).dg = 31 := by decide

/-- The final pixel; the 62nd of a run; neither. -/
theorem witness_EqualPixelContinuesTheRun :
    (let s := encoding 1 [black]
     s.offered = none ∧ s.mode = .encode ∧ s.phase = .body ∧ s.run.toNat ≤ 61 ∧ s.nextPixel = some s.prev ∧
      s.pcnt = s.npix - 1) ∧
    (let s : State := { encoding 63 [] with pixIn := List.replicate 63 (wordOfPixel black), pcnt := 61, run := 61 }
     s.offered = none ∧ s.mode = .encode ∧ s.phase = .body ∧ s.run.toNat ≤ 61 ∧ s.nextPixel = some s.prev ∧
      s.run.toNat + 1 = 62) ∧
    (let s := encoding 2 [black, black]
     s.offered = none ∧ s.mode = .encode ∧ s.phase = .body ∧ s.run.toNat ≤ 61 ∧ s.nextPixel = some s.prev ∧
      ¬(s.run.toNat + 1 = 62 ∨ s.pcnt = s.npix - 1)) := by decide

/-- A hit, and a miss of each of the four kinds. -/
theorem witness_ChangedPixelIsCoded :
    (let s : State := { encoding 1 [black] with prev := grey }
     s.offered = none ∧ s.mode = .encode ∧ s.phase = .body ∧ s.run.toNat ≤ 61 ∧ s.nextPixel = some black ∧
      black ≠ s.prev ∧ s.lookup black = true) ∧
    (let s := afterGrey ⟨98, 98, 98, 255⟩
     s.nextPixel = some ⟨98, 98, 98, 255⟩ ∧ s.lookup ⟨98, 98, 98, 255⟩ = false ∧ diffOk ⟨98, 98, 98, 255⟩ s.prev = true) ∧
    (let s := afterGrey ⟨60, 68, 60, 255⟩
     s.nextPixel = some ⟨60, 68, 60, 255⟩ ∧ s.lookup ⟨60, 68, 60, 255⟩ = false ∧
      diffOk ⟨60, 68, 60, 255⟩ s.prev = false ∧ lumaOk ⟨60, 68, 60, 255⟩ s.prev = true) ∧
    (let s := afterGrey ⟨67, 67, 67, 255⟩
     s.nextPixel = some ⟨67, 67, 67, 255⟩ ∧ s.lookup ⟨67, 67, 67, 255⟩ = false ∧
      diffOk ⟨67, 67, 67, 255⟩ s.prev = false ∧ lumaOk ⟨67, 67, 67, 255⟩ s.prev = false ∧
      (⟨67, 67, 67, 255⟩ : Pixel).a = s.prev.a) ∧
    (let s := afterGrey ⟨100, 100, 100, 254⟩
     s.nextPixel = some ⟨100, 100, 100, 254⟩ ∧ s.lookup ⟨100, 100, 100, 254⟩ = false ∧
      (⟨100, 100, 100, 254⟩ : Pixel).a ≠ s.prev.a) := by decide

theorem witness_PixelStepEmitsAtMostSixBytes :
    let s := afterGrey ⟨100, 100, 100, 254⟩
    s.offered = none ∧ s.mode = .encode ∧ s.phase = .body ∧ ∃ t, step s = .next t := ⟨rfl, rfl, rfl, _, rfl⟩

/-- A legal header, an illegal one, a trailer whose source has ended, one whose source goes on, and a source that has ended
before the last pixel. -/
theorem witness_EncoderFramingSteps :
    (let s := { encoding 1 [] with phase := .header }
     s.offered = none ∧ s.mode = .encode ∧ s.phase = .header ∧ s.descriptor.legal = true) ∧
    (let s := { encoding 0 [] with phase := .header }
     s.phase = .header ∧ s.descriptor.legal = false) ∧
    (let s := { encoding 1 [black] with phase := .trailer, pcnt := 1 }
     s.phase = .trailer ∧ s.pixIn.length ≤ s.pcnt.toNat) ∧
    (let s := { encoding 1 [black, black] with phase := .trailer, pcnt := 1 }
     (s.phase = .trailer ∨ s.phase = .body) ∧ (s.phase = .trailer ↔ s.pcnt.toNat < s.pixIn.length)) ∧
    (let s := { encoding 2 [black] with pcnt := 1 }
     (s.phase = .trailer ∨ s.phase = .body) ∧ (s.phase = .trailer ↔ s.pcnt.toNat < s.pixIn.length)) := by decide

/-- A run of one pixel ended by a change, and ended by the image. -/
theorem witness_LongRunsAreBounded :
    (let s := encoding 2 [black, grey]
     s.cmdIn = [] ∧ s.mode = .encode ∧ s.phase = .body ∧ s.run = 0 ∧
      (∀ k, k < 1 → (s.pixIn[s.pcnt.toNat + k]?).map pixelOfWord = some s.prev) ∧
      s.pcnt.toNat + 1 < s.npix.toNat ∧ (s.pixIn[s.pcnt.toNat + 1]?).map pixelOfWord = some grey ∧ grey ≠ s.prev) ∧
    (let s := encoding 1 [black]
     (∀ k, k < 1 → (s.pixIn[s.pcnt.toNat + k]?).map pixelOfWord = some s.prev) ∧
      0 < 1 ∧ s.pcnt.toNat + 1 = s.npix.toNat) := by decide

/-- Grey, another pixel, and grey again. -/
theorem witness_SeenPixelIsIndexed :
    let s : State := { encoding 3 [grey, ⟨98, 98, 98, 255⟩, grey] with cmdIn := [] }
    s.Inv ∧ s.mode = .encode ∧ s.phase = .body ∧ s.nextPixel = some grey ∧ grey ≠ s.prev ∧
      (∀ k q, 1 ≤ k → k ≤ 1 → (s.pixIn[s.pcnt.toNat + k]?).map pixelOfWord = some q → q = grey ∨ pixelHash q ≠ pixelHash grey) ∧
      ∃ t, runsTo (1 + 1) s t ∧ t.phase = .body ∧ t.nextPixel = some grey ∧ grey ≠ t.prev := by
  refine ⟨inv_encoding 3 (by decide) _ _, rfl, rfl, by decide, by decide, fun k q h1 h2 hq => ?_, _, rfl, by decide, by decide,
    by decide⟩
  obtain rfl : k = 1 := by omega
  obtain rfl := Option.some.inj hq
  exact .inr (by decide)

/-- An encoder before a pixel that is coded, and a decoder at the same point with the chunk's bytes ahead of it. -/
theorem witness_DecoderMirrorsTheEncoder :
    let e : State := { encoding 2 [grey, black] with cmdIn := [] }
    let d : State := { decoding 2 [0xFE, 100, 100, 100, 7] with draws := 1 }
    e.Inv ∧ e.phase = .body ∧ Mirrors e d ([0xFE, 100, 100, 100] ++ [7]) ∧
      ∃ e', step e = .next e' ∧ e'.phase ≠ .error ∧ e'.byteOut = e.byteOut ++ [0xFE, 100, 100, 100] :=
  ⟨inv_encoding 2 (by decide) _ _, rfl, ⟨⟨rfl, rfl⟩, ⟨.inl rfl, rfl⟩, ⟨rfl, rfl⟩, rfl, rfl, rfl, by decide, rfl, rfl⟩,
    _, rfl, by decide, by decide⟩

/-- An illegal descriptor, a legal one with a pixel missing, a legal one with its pixel. -/
theorem witness_EncodePassOutcome : State.reset.phase.active = false ∧ (Descriptor.mk 0 1 4 0).legal = false ∧
    ((Descriptor.mk 1 1 4 0).legal = true ∧ ([] : List Pixel).length ≠ (Descriptor.mk 1 1 4 0).pixelCount ∧
      [black].length = (Descriptor.mk 1 1 4 0).pixelCount) := by decide

/-- 13 bytes; a header of another magic; a legal header. -/
theorem witness_DecodePassOutcome : State.reset.phase.active = false ∧ (List.replicate 13 (0 : Byte)).length < 14 ∧
    (decodeAt .header (List.replicate 14 0) = .ok (.header 0 0 0 0 0, []) ∧ (0 : Word) ≠ State.reset.params.magic) ∧
    (decodeAt .header [0x71, 0x6F, 0x69, 0x66, 0, 0, 0, 1, 0, 0, 0, 1, 4, 0] = .ok (.header 0x716F6966 1 1 4 0, []) ∧
      (0x716F6966 : Word) = State.reset.params.magic ∧ legalDescriptor 1 1 4 0 = true) := by decide

theorem witness_DecodeOfEncodeIsThePixels : State.reset.phase.active = false ∧
    State.reset.params.magic = State.reset.params.magic ∧ (Descriptor.mk 1 1 4 0).legal = true ∧
    [grey].length = (Descriptor.mk 1 1 4 0).pixelCount := by decide

end Sys2Proof.Tests
end

section
/-! What a step can do, said once as a change of State: the layer under the statements about every step. -/

namespace Sys2Proof.Machine

open Sys2Proof

variable {s t u : State}

/-! ### The encoder's parts -/

/-- What the parts of a pixel step leave alone before the pixel is counted: all but CACHE, PREV, RUN and BYTE_OUT. -/
structure CodingFrame (s t : State) : Prop extends EncoderFrame s t where
  pcnt : t.pcnt = s.pcnt
  phase : t.phase = s.phase
  err : t.err = s.err
  cmdIn : t.cmdIn = s.cmdIn

theorem CodingFrame.trans (h : CodingFrame s t) (h' : CodingFrame t u) : CodingFrame s u where
  width := h'.width.trans h.width
  height := h'.height.trans h.height
  channels := h'.channels.trans h.channels
  colorspace := h'.colorspace.trans h.colorspace
  mode := h'.mode.trans h.mode
  bpos := h'.bpos.trans h.bpos
  byteIn := h'.byteIn.trans h.byteIn
  pixIn := h'.pixIn.trans h.pixIn
  pixOut := h'.pixOut.trans h.pixOut
  params := h'.params.trans h.params
  draws := h'.draws.trans h.draws
  pcnt := h'.pcnt.trans h.pcnt
  phase := h'.phase.trans h.phase
  err := h'.err.trans h.err
  cmdIn := h'.cmdIn.trans h.cmdIn

/-- CACHE, PREV, RUN and BYTE_OUT may be anything. -/
theorem CodingFrame.of_coded (s : State) (cache : Vector Pixel 64) (prev : Pixel) (run : BitVec 6) (bytes : List Byte) :
    CodingFrame s { s with cache := cache, prev := prev, run := run, byteOut := bytes } :=
  ⟨⟨rfl, rfl, rfl, rfl, rfl, rfl, rfl, rfl, rfl, rfl, rfl⟩, rfl, rfl, rfl, rfl⟩

theorem CodingFrame.descriptor (h : CodingFrame s t) : t.descriptor = s.descriptor := by
  simp [State.descriptor, h.width, h.height, h.channels, h.colorspace]

theorem CodingFrame.npix (h : CodingFrame s t) : t.npix = s.npix := State.npix_congr h.width h.height

theorem emitRecord_next {i : Instr} (h : emitRecord i s = .next t) : i.wellFormed = true ∧ t = s.emit (encode i) := by
  unfold emitRecord at h
  split at h
  · rename_i bs hbs
    obtain ⟨hw, rfl⟩ := (pack_eq_some_iff i bs).1 hbs
    exact ⟨hw, (next_inj.1 h).symm⟩
  · cases h

theorem flushRun_frame (h : flushRun s = .next t) : CodingFrame s t := by
  obtain ⟨v, hv, ht⟩ := andThen_eq_next.1 h
  obtain ⟨-, rfl⟩ := emitRecord_next hv
  obtain rfl := next_inj.1 ht
  exact .of_coded s _ _ _ _

theorem continueRun_frame (h : continueRun s = .next t) : CodingFrame s t := by
  have count : CodingFrame s (s.setRun (s.run + 1)) := .of_coded s _ _ _ _
  unfold continueRun at h
  simp only at h
  split at h
  · exact count.trans (flushRun_frame h)
  · exact next_inj.1 h ▸ count

theorem flushPending_frame (h : flushPending s = .next t) : CodingFrame s t := by
  unfold flushPending at h
  split at h
  · exact next_inj.1 h ▸ .of_coded s _ _ _ _
  · exact flushRun_frame h

theorem State.remember_frame (s : State) (px : Pixel) : CodingFrame s (s.remember px) := by
  unfold State.remember
  split <;> exact .of_coded s _ _ _ _

theorem codePixel_frame {px : Pixel} (h : codePixel px s = .next t) : CodingFrame s t := by
  rw [codePixel_eq, next_inj] at h
  exact h ▸ (s.remember_frame px).trans (.of_coded _ _ _ _ _)

/-- A pixel step that goes on, whatever RUN holds: the error entry, or a coded pixel that is then counted. -/
theorem encodePixel_next (h : encodePixel s = .next t) :
    (s.nextPixel = none ∧ t = s.raise .pixelCountMismatch) ∨ ∃ u, CodingFrame s u ∧ t = u.countPixels 1 := by
  unfold encodePixel at h
  split at h
  · exact .inl ⟨‹_›, (next_inj.1 h).symm⟩
  · obtain ⟨u, hu, ht⟩ := andThen_eq_next.1 h
    refine .inr ⟨u, ?_, (next_inj.1 ht).symm⟩
    split at hu
    · exact continueRun_frame hu
    · obtain ⟨v, hv, hu⟩ := andThen_eq_next.1 hu
      exact (flushPending_frame hv).trans (codePixel_frame hu)

theorem encodeHeader_next (h : encodeHeader s = .next t) :
    (s.descriptor.legal = true ∧ t = (s.emit (encode
      (.header s.params.magic s.width s.height s.channels s.colorspace))).setPhase .body) ∨
    (s.descriptor.legal = false ∧ t = s.raise .malformedHeader) := by
  unfold encodeHeader at h
  split at h
  · rename_i hl
    obtain ⟨u, hu, ht⟩ := andThen_eq_next.1 h
    obtain ⟨-, rfl⟩ := emitRecord_next hu
    exact .inl ⟨hl, (next_inj.1 ht).symm⟩
  · exact .inr ⟨Bool.not_eq_true _ ▸ ‹_›, (next_inj.1 h).symm⟩

theorem encodeTrailer_next (h : encodeTrailer s = .next t) :
    (s.pixAtEnd = true ∧ t = (s.emit (encode .endMark)).setPhase .done) ∨
    (s.pixAtEnd = false ∧ t = s.raise .pixelCountMismatch) := by
  unfold encodeTrailer at h
  split at h
  · obtain ⟨u, hu, ht⟩ := andThen_eq_next.1 h
    obtain ⟨-, rfl⟩ := emitRecord_next hu
    exact .inl ⟨‹_›, (next_inj.1 ht).symm⟩
  · exact .inr ⟨Bool.not_eq_true _ ▸ ‹_›, (next_inj.1 h).symm⟩

/-! ### The decoder's parts -/

/-- A chunk uses up as many bytes as its record has (`42_byte_packer_unpacker.md` R122). -/
theorem decodeChunk_length {bs rest : List Byte} {i : Instr} (h : decodeChunk bs = .ok (i, rest)) :
    bs.length = i.length + rest.length := by
  cases bs with
  | nil => cases h
  | cons tag bs =>
    rw [decodeChunk_cons] at h
    split at h
    · unfold decodeRgba at h; split at h <;> cases h
      simp [Instr.length]; omega
    split at h
    · unfold decodeRgb at h; split at h <;> cases h
      simp [Instr.length]; omega
    split at h
    · cases h; simp [decodeRun, Instr.length]; omega
    split at h
    · cases h; simp [decodeIndex, Instr.length]; omega
    split at h
    · cases h; simp [decodeDiff, Instr.length]; omega
    · unfold decodeLuma at h; split at h <;> cases h
      simp [Instr.length]; omega

theorem decodeHeader_length {bs rest : List Byte} {i : Instr} (h : decodeHeader bs = .ok (i, rest)) :
    14 ≤ bs.length := by
  unfold decodeHeader at h
  split at h <;> cases h
  simp

/-- A chunk that is fetched ends inside the stream. -/
theorem fetch_chunk_fits {i : Instr} (h : fetch s = .ok i) (hp : s.phase = .body) (hb : s.bpos ≤ s.len) :
    s.bpos + i.length ≤ s.len := by
  simp only [fetch, hp, fetchPlace, decodeAt] at h
  split at h
  · rename_i hd
    cases h
    have := decodeChunk_length hd
    simp only [State.unread, List.length_drop, State.len] at *
    omega
  · cases h

/-- A stream whose header is fetched has the 14 bytes of it. -/
theorem fetch_header_fits {i : Instr} (h : fetch s = .ok i) (hp : s.phase = .header) : 14 ≤ s.len := by
  simp only [fetch, hp, fetchPlace, decodeAt] at h
  split at h
  · rename_i hd
    simpa [State.unread, State.len] using decodeHeader_length hd
  · cases h

/-- The numbers of pixels one step counts in BODY: a single pixel, or a RUN that fits what is missing
(`43_chunk_decoder.md` R143). -/
def State.Countable (s : State) (n : Nat) : Prop := n = 1 ∨ n ≤ 62 ∧ n ≤ s.npix.toNat - s.pcnt.toNat

/-- A cache that the coding of one pixel may leave: the one before, or the one after a store of the pixel. -/
def State.KeptOrStored (s : State) (px : Pixel) (cache : Vector Pixel 64) : Prop :=
  cache = s.cache ∨ cache = (s.store px).cache

/-- What every chunk does with its pixel besides the cache it leaves: put it `n` times, make it PREV, count it, pass
`len` bytes. A RUN chunk does so with PREV itself. -/
def State.chunkDone (s : State) (cache : Vector Pixel 64) (px : Pixel) (n len : Nat) : State :=
  (((State.putPixels { s with cache := cache } n px).setPrev px).countPixels n).advance len

@[simp] theorem State.chunkDone_pcnt (s : State) (cache : Vector Pixel 64) (px : Pixel) (n len : Nat) :
    (s.chunkDone cache px n len).pcnt = s.pcnt + BitVec.ofNat 64 n := rfl

@[simp] theorem State.chunkDone_bpos (s : State) (cache : Vector Pixel 64) (px : Pixel) (n len : Nat) :
    (s.chunkDone cache px n len).bpos = s.bpos + len := rfl

@[simp] theorem State.chunkDone_pixOut (s : State) (cache : Vector Pixel 64) (px : Pixel) (n len : Nat) :
    (s.chunkDone cache px n len).pixOut = s.pixOut ++ List.replicate n (wordOfPixel px) := rfl

/-! ### The step of the pass -/

/-- A step of the pass that goes on, as a change of the boundary state `s`: the transitions of `10_state.md` R17. -/
inductive PassEffect (s : State) : State → Prop where
  | wait (hi : s.phase.active = false) : PassEffect s s
  | raise (k : ErrKind) (ha : s.phase.active = true) : PassEffect s (s.raise k)
  | openEncode (bs : List Byte) (hm : s.mode = .encode) (hp : s.phase = .header) (hl : s.descriptor.legal = true) :
      PassEffect s ((s.emit bs).setPhase .body)
  | openDecode (d : Descriptor) (hm : s.mode = .decode) (hp : s.phase = .header) (hl : d.legal = true)
      (fits : 14 ≤ s.len) : PassEffect s (((s.setDescriptor d).setPos 14).setPhase .body)
  | pixel {u : State} (hm : s.mode = .encode) (hp : s.phase = .body) (he : encodePixel s = .next (u.countPixels 1))
      (hu : CodingFrame s u) : PassEffect s (u.countPixels 1)
  | chunk (cache : Vector Pixel 64) (px : Pixel) (n len : Nat) (hm : s.mode = .decode) (hp : s.phase = .body)
      (hc : s.KeptOrStored px cache) (hn : s.Countable n)
      (fits : s.bpos ≤ s.len → s.bpos + len ≤ s.len) : PassEffect s (s.chunkDone cache px n len)
  | closeEncode (hm : s.mode = .encode) (hp : s.phase = .trailer) :
      PassEffect s ((s.emit (encode .endMark)).setPhase .done)
  | closeDecode (hm : s.mode = .decode) (hp : s.phase = .trailer) : PassEffect s ((s.advance 8).setPhase .done)

/-- A decoder meaning on the record fetched is one of the effects. -/
theorem ExecDone.effect {i : Instr} (h : ExecDone s i t) (hm : s.mode = .decode) (hp : s.phase = placePhase i.place)
    (hf : fetch s = .ok i) : PassEffect s t := by
  have stored (px : Pixel) (len : Nat) (hp : s.phase = .body) (fits : s.bpos ≤ s.len → s.bpos + len ≤ s.len) :
      PassEffect s (s.storeAndYield px len) := .chunk (s.store px).cache px 1 len hm hp (.inr rfl) (.inl rfl) fits
  cases h with
  | runPut len _ h2 room => exact .chunk s.cache s.prev len 1 hm hp (.inl rfl) (.inr ⟨h2, room⟩) (fetch_chunk_fits hf hp)
  | index j => exact .chunk s.cache (s.slot j) 1 1 hm hp (.inl rfl) (.inl rfl) (fetch_chunk_fits hf hp)
  | diff dr dg db => exact stored _ 1 hp (fetch_chunk_fits hf hp)
  | luma dg drg dbg => exact stored _ 2 hp (fetch_chunk_fits hf hp)
  | rgb r g b => exact stored _ 4 hp (fetch_chunk_fits hf hp)
  | rgba r g b a => exact stored _ 5 hp (fetch_chunk_fits hf hp)
  | header magic w h c cs _ hl => exact .openDecode ⟨w, h, c, cs⟩ hm hp hl (fetch_header_fits hf hp)
  | endOk _ => exact .closeDecode hm hp
  | runPast len _ => exact .raise _ (by rw [hp]; rfl)
  | headerBad magic w h c cs _ => exact .raise _ (by rw [hp]; rfl)
  | endBad _ => exact .raise _ (by rw [hp]; rfl)

theorem PassDone.effect (h : PassDone s t) : PassEffect s t := by
  cases h with
  | wait hi => exact .wait hi
  | encodeHeader hm hp h =>
    obtain ⟨hl, rfl⟩ | ⟨-, rfl⟩ := encodeHeader_next h
    · exact .openEncode _ hm hp hl
    · exact .raise _ (by rw [hp]; rfl)
  | encodePixel hm hp h =>
    obtain ⟨-, rfl⟩ | ⟨u, hu, rfl⟩ := encodePixel_next h
    · exact .raise _ (by rw [hp]; rfl)
    · exact .pixel hm hp h hu
  | encodeTrailer hm hp h =>
    obtain ⟨-, rfl⟩ | ⟨-, rfl⟩ := encodeTrailer_next h
    · exact .closeEncode hm hp
    · exact .raise _ (by rw [hp]; rfl)
  | decodeRaise k _ ha _ => exact .raise k ha
  | decodeExec i hm _ hf he =>
    obtain ⟨-, -, hp, hd⟩ := exec_next he
    exact hd.effect hm hp hf

/-! ### The commands -/

/-- A command that goes on: START with no pass active, an ABORT of the active pass, an ABORT that does nothing. -/
inductive CommandEffect (s : State) : Command → State → Prop where
  | startEncode (d : Descriptor) (hi : s.phase.active = false) :
      CommandEffect s (.startEncode d) ((s.startPass.setMode .encode).setDescriptor d)
  | startDecode (hi : s.phase.active = false) :
      CommandEffect s .startDecode (s.startPass.setMode .decode).forgetDescriptor
  | abort (ha : s.phase.active = true) : CommandEffect s .abort (s.setPhase .idle)
  | ignore (hi : s.phase.active = false) : CommandEffect s .abort s

theorem command_next {c : Command} (h : command c s = .next t) : CommandEffect s c t := by
  cases c with
  | startEncode d =>
    simp only [command, Machine.startEncode] at h
    split at h
    · cases h
    · cases h; exact .startEncode d (Bool.not_eq_true _ ▸ ‹_›)
  | startDecode =>
    simp only [command, Machine.startDecode] at h
    split at h
    · cases h
    · cases h; exact .startDecode (Bool.not_eq_true _ ▸ ‹_›)
  | abort =>
    simp only [command, abortPass] at h
    split at h
    · cases h; exact .abort ‹_›
    · cases h; exact .ignore (Bool.not_eq_true _ ▸ ‹_›)

/-- Every step that goes on, as a change of the boundary state. -/
inductive StepEffect (s : State) : State → Prop where
  | command {c : Command} {t : State} (ho : s.offered = some c) (h : CommandEffect s.boundary c t) : StepEffect s t
  | pass {t : State} (ho : s.offered = none) (h : PassEffect s.boundary t) : StepEffect s t

theorem step_effect (h : step s = .next t) : StepEffect s t := by
  obtain ⟨c, ho, hc⟩ | ⟨ho, hd⟩ := step_next h
  · exact .command ho (command_next hc)
  · exact .pass ho hd.effect

end Sys2Proof.Machine
end

section
/-! What a step changes of MODE, the descriptor, PHASE and the positions. -/

namespace Sys2Proof.Machine

open Sys2Proof

variable {s t u : State}

/-- START leads from no pass into HEADER; an ABORT writes PHASE at most. -/
theorem CommandEffect.start_or_abort {c : Command} (h : CommandEffect s c t) :
    (c.isStart = true ∧ s.phase.active = false ∧ t.phase = .header) ∨
      (c = .abort ∧ (t = s ∨ s.phase.active = true ∧ t = s.setPhase .idle)) := by
  cases h with
  | startEncode d hi => exact .inl ⟨rfl, hi, rfl⟩
  | startDecode hi => exact .inl ⟨rfl, hi, rfl⟩
  | abort ha => exact .inr ⟨rfl, .inr ⟨ha, rfl⟩⟩
  | ignore _ => exact .inr ⟨rfl, .inl rfl⟩

/-- A step is a START, an ABORT that writes PHASE at most, or a step of the pass. -/
theorem step_split (h : step s = .next t) :
    (s.startOffered ∧ s.phase.active = false ∧ t.phase = .header) ∨
      (s.offered = some .abort ∧ (t = s.boundary ∨ s.phase.active = true ∧ t = s.boundary.setPhase .idle)) ∨
      PassEffect s.boundary t := by
  cases step_effect h with
  | command ho hc =>
    obtain ⟨hs, hi, hp⟩ | ⟨rfl, ha⟩ := hc.start_or_abort
    · exact .inl ⟨⟨_, ho, hs⟩, hi, hp⟩
    · exact .inr (.inl ⟨ho, ha⟩)
  | pass _ hp => exact .inr (.inr hp)

/-! ### MODE and the descriptor -/

theorem PassEffect.mode (h : PassEffect s t) : t.mode = s.mode := by
  cases h with
  | pixel _ _ _ hu => exact hu.mode
  | _ => rfl

/-- Only the header step of a decode pass writes the descriptor registers (`10_state.md` R19). -/
theorem PassEffect.descriptor (h : PassEffect s t) :
    t.descriptor = s.descriptor ∨ s.mode = .decode ∧ s.phase = .header ∧ t.phase = .body := by
  cases h with
  | pixel _ _ _ hu => exact .inl hu.descriptor
  | openDecode d hm hp _ _ => exact .inr ⟨hm, hp, rfl⟩
  | _ => exact .inl rfl

/-- Settles O27: of the commands only START writes MODE, and no step of the pass does. -/
theorem modeChangesOnlyByStart : Obligations.ModeChangesOnlyByStart := by
  intro s t h hne
  obtain ⟨hs, -⟩ | ⟨-, rfl | ⟨-, rfl⟩⟩ | hp := step_split h
  · exact hs
  · exact absurd rfl hne
  · exact absurd rfl hne
  · exact absurd hp.mode hne

/-- Settles O28: of the commands only START writes the descriptor, of the steps of the pass only the decoder's header
step. -/
theorem descriptorChangesOnlyAtTheStart : Obligations.DescriptorChangesOnlyAtTheStart := by
  intro s t h hne
  obtain ⟨hs, -⟩ | ⟨-, rfl | ⟨-, rfl⟩⟩ | hp := step_split h
  · exact .inl hs
  · exact absurd rfl hne
  · exact absurd rfl hne
  · exact .inr (hp.descriptor.resolve_left hne)

/-! ### PHASE -/

/-- Counting pixels in BODY stays there with pixels missing, or completes the image and goes to TRAILER. -/
theorem State.countPixels_phase_cases (hp : u.phase = .body) (n : Nat) :
    ((u.countPixels n).phase = .body ∧ (u.countPixels n).pcnt ≠ u.npix) ∨
      ((u.countPixels n).phase = .trailer ∧ (u.countPixels n).pcnt = u.npix) := by
  by_cases h : u.pcnt + BitVec.ofNat 64 n = u.npix
  · exact .inr ⟨if_pos h, h⟩
  · exact .inl ⟨(if_neg h).trans hp, h⟩

/-- The table of transitions (`10_state.md` R17) without its commands. -/
theorem PassEffect.phase (h : PassEffect s t) (hne : t.phase ≠ s.phase) :
    (s.phase = .header ∧ t.phase = .body) ∨ (s.phase = .body ∧ t.phase = .trailer ∧ t.pcnt = t.npix) ∨
      (s.phase = .trailer ∧ t.phase = .done) ∨ (s.phase.active = true ∧ t.phase = .error) := by
  cases h with
  | wait _ => exact absurd rfl hne
  | raise k ha => exact .inr (.inr (.inr ⟨ha, rfl⟩))
  | openEncode bs _ hp _ => exact .inl ⟨hp, rfl⟩
  | openDecode d _ hp _ _ => exact .inl ⟨hp, rfl⟩
  | pixel _ hp _ hu =>
    obtain ⟨hb, -⟩ | ht := State.countPixels_phase_cases (hu.phase.trans hp) 1
    · exact absurd (hb.trans hp.symm) hne
    · exact .inr (.inl ⟨hp, ht⟩)
  | chunk cache px n len _ hp _ _ _ =>
    obtain ⟨hb, -⟩ | ht := State.countPixels_phase_cases
      (u := (State.putPixels { s with cache := cache } n px).setPrev px) hp n
    · exact absurd (hb.trans hp.symm) hne
    · exact .inr (.inl ⟨hp, ht⟩)
  | closeEncode _ hp => exact .inr (.inr (.inl ⟨hp, rfl⟩))
  | closeDecode _ hp => exact .inr (.inr (.inl ⟨hp, rfl⟩))

/-- Settles O30: the transitions of the pass and those of the two commands are the six of the table. -/
theorem phasesFollowTheSequence : Obligations.PhasesFollowTheSequence := by
  intro s t h hne
  obtain ⟨hs, hi, ht⟩ | ⟨ho, rfl | ⟨ha, rfl⟩⟩ | hp := step_split h
  · exact .inl ⟨hi, ht, hs⟩
  · exact absurd rfl hne
  · exact .inr (.inr (.inr (.inr (.inr ⟨ha, rfl, ho⟩))))
  · obtain h | h | h | h := hp.phase hne
    · exact .inr (.inl h)
    · exact .inr (.inr (.inl h))
    · exact .inr (.inr (.inr (.inl h)))
    · exact .inr (.inr (.inr (.inr (.inl h))))

/-- Settles O39: with no pass active `passStep` is the identity on the boundary state. -/
theorem inactiveCoreWaits : Obligations.InactiveCoreWaits := by
  intro s hi ho
  rw [step_of_quiet ho, passStep, State.boundary_phase, if_neg (by simp [hi])]
  rfl

/-! ### The positions -/

/-- What is left of the image in BODY is enough for the pixels a step counts. -/
theorem State.Inv.room (h : s.Inv) (hp : s.phase = .body) {n : Nat}
    (hn : s.Countable n) : s.pcnt.toNat + n ≤ s.npix.toNat := by
  have := h.missing hp
  unfold State.Countable at hn
  omega

theorem State.Inv.boundary (h : s.Inv) : s.boundary.Inv := { h with }

theorem PassEffect.positions (h : PassEffect s t) (hi : s.Inv) :
    s.bpos ≤ t.bpos ∧ s.pcnt.toNat ≤ t.pcnt.toNat ∧ t.pcnt.toNat ≤ s.pcnt.toNat + 62 := by
  cases h with
  | pixel _ hp _ hu =>
    have hc := State.pcnt_add_toNat (hi.room hp (.inl rfl))
    rw [State.countPixels_bpos, State.countPixels_pcnt, hu.bpos, hu.pcnt, hc]
    omega
  | chunk cache px n len _ hp _ hn _ =>
    have hc := State.pcnt_add_toNat (hi.room hp hn)
    rw [State.chunkDone_bpos, State.chunkDone_pcnt, hc]
    unfold State.Countable at hn
    omega
  | openDecode d _ hp _ _ =>
    obtain ⟨-, -, -, -, hb, -⟩ := hi.fresh hp
    exact ⟨hb ▸ Nat.zero_le _, le_rfl, Nat.le_add_right _ _⟩
  | closeDecode _ _ => exact ⟨Nat.le_add_right _ _, le_rfl, Nat.le_add_right _ _⟩
  | _ => exact ⟨le_rfl, le_rfl, Nat.le_add_right _ _⟩

/-- Settles O31: only START sets the positions back, and a chunk counts at most 62 pixels of those still missing. -/
theorem positionsNeverMoveBack : Obligations.PositionsNeverMoveBack := by
  intro s t hi h hs
  obtain ⟨hst, -⟩ | ⟨-, rfl | ⟨-, rfl⟩⟩ | hp := step_split h
  · exact absurd hst hs
  · exact ⟨le_rfl, le_rfl, Nat.le_add_right _ _⟩
  · exact ⟨le_rfl, le_rfl, Nat.le_add_right _ _⟩
  · exact hp.positions hi.boundary

end Sys2Proof.Machine
end

section
/-! Every step keeps the invariant of a pass (`10_state.md` R25): one lemma for each kind of change of State. -/

namespace Sys2Proof.Machine

open Sys2Proof

variable {s t u : State}

/-! ### Outside a pass -/

theorem State.Inv.err_none (h : s.Inv) (hp : s.phase ≠ .error) : s.err = none :=
  not_not.1 fun he => hp (h.errIff.2 he)

theorem Phase.ne_error_of_active {p : Phase} (h : p.active = true) : p ≠ .error := by
  rintro rfl; cases h

/-- In IDLE and ERROR the invariant asks for ERR and the slots only. -/
theorem State.Inv.of_resting (hp : s.phase = .idle ∨ s.phase = .error) (he : s.phase = .error ↔ s.err ≠ none)
    (hc : ∀ j, s.slot j = Config.defaultPixel ∨ pixelHash (s.slot j) = j) : s.Inv := by
  constructor
  case errIff => exact he
  case slots => exact hc
  all_goals rcases hp with hp | hp <;> simp [State.inPass, hp]

theorem State.Inv.raise (h : s.Inv) (k : ErrKind) : (s.raise k).Inv :=
  .of_resting (.inr rfl) (by simp) h.slots

theorem State.Inv.aborted (h : s.Inv) (ha : s.phase.active = true) : (s.setPhase .idle).Inv :=
  .of_resting (.inl rfl) (by simp [h.err_none (Phase.ne_error_of_active ha)]) h.slots

theorem State.slot_reset (j : Slot) : State.reset.slot j = Config.defaultPixel := by
  simp [State.slot, State.reset, Vector.get_eq_getElem]

/-- Settles O32: at power-on PHASE is IDLE, ERR is 0 and every slot holds the default pixel. -/
theorem invariantAtPowerOn : Obligations.InvariantAtPowerOn :=
  State.Inv.of_resting (.inl rfl) ⟨nofun, fun h => absurd rfl h⟩ fun j => .inl (State.slot_reset j)

/-! ### The beginning and the end of a pass -/

/-- The running state as START leaves it (`10_state.md` R22), before any pixel. -/
structure State.Unstarted (s : State) : Prop where
  err : s.err = none
  prev : s.prev = Config.defaultPixel
  slots : ∀ j, s.slot j = Config.defaultPixel
  run : s.run = 0
  pcnt : s.pcnt = 0
  pixOut : s.pixOut = []

theorem State.startPass_unstarted (s : State) : s.startPass.Unstarted :=
  ⟨rfl, rfl, s.slot_startPass, rfl, rfl, rfl⟩

theorem State.Inv.unstarted (h : s.Inv) (hp : s.phase = .header) : s.Unstarted := by
  obtain ⟨hprev, hslots, hrun, hpcnt, -, -, hpix⟩ := h.fresh hp
  exact ⟨h.err_none (by simp [hp]), hprev, hslots, hrun, hpcnt, hpix⟩

theorem State.Unstarted.inv_header (h : s.Unstarted) (hp : s.phase = .header) (hb : s.bpos = 0)
    (ho : s.byteOut = []) : s.Inv := by
  constructor
  case errIff => simp [hp, h.err]
  case slots => exact fun j => .inl (h.slots j)
  case fresh => exact fun _ => ⟨h.prev, h.slots, h.run, h.pcnt, hb, ho, h.pixOut⟩
  all_goals simp [State.inPass, hp]

/-- The first state of BODY: a legal descriptor, so that pixels are missing, and nothing coded yet. -/
theorem State.Unstarted.inv_body (h : s.Unstarted) (hp : s.phase = .body) (hl : s.descriptor.legal = true)
    (hpos : s.mode = .decode → 14 ≤ s.bpos ∧ s.bpos ≤ s.len) : s.Inv where
  errIff := by simp [hp, h.err]
  slots j := .inl (h.slots j)
  fresh := by simp [hp]
  legal _ := hl
  missing _ := by simpa [h.pcnt] using State.npix_pos hl
  complete := by simp [hp]
  runBound _ := by simp [h.run]
  decodeRun _ _ := h.run
  pendingRun _ _ := by simp [h.run, h.pcnt]
  trailerRun _ := h.run
  ownSlot _ _ := (h.slots _).trans h.prev.symm
  putCount _ _ := by simp [h.pcnt, h.pixOut]
  position _ := hpos

/-- In DONE the image stays complete; the positions are free there. -/
theorem State.Inv.closed (h : s.Inv) (hp : s.phase = .trailer) (pos : Nat) (bytes : List Byte) :
    ({ s with phase := .done, bpos := pos, byteOut := bytes } : State).Inv := by
  constructor
  case errIff => simp [h.err_none (show s.phase ≠ .error by simp [hp])]
  case slots => exact h.slots
  case complete => exact fun _ => h.complete (.inl hp)
  case putCount => exact fun _ => h.putCount (.inl (.inr hp))
  all_goals simp [State.inPass]

/-! ### Counting pixels in BODY -/

/-- `t` is in BODY with pixels missing, or in TRAILER with none, after `n` pixels were counted in BODY of `s`. -/
structure Counted (s t : State) (n : Nat) : Prop where
  body : s.phase = .body
  phase : t.phase = .body ∧ t.pcnt ≠ t.npix ∨ t.phase = .trailer ∧ t.pcnt = t.npix
  pcnt : t.pcnt.toNat = s.pcnt.toNat + n
  room : t.pcnt.toNat ≤ t.npix.toNat
  err : t.err = s.err
  descriptor : t.descriptor = s.descriptor

/-- Counting on a state `u` that stands where `s` does gives such a state. -/
theorem State.Inv.counted {n : Nat} (hi : s.Inv) (hp : s.phase = .body)
    (hn : s.Countable n) (hphase : u.phase = s.phase) (hpcnt : u.pcnt = s.pcnt)
    (herr : u.err = s.err) (hd : u.descriptor = s.descriptor) : Counted s (u.countPixels n) n := by
  have hnpix : u.npix = s.npix := State.npix_congr (congrArg (·.width) hd) (congrArg (·.height) hd)
  have hc := State.pcnt_add_toNat (hi.room hp hn)
  refine ⟨hp, State.countPixels_phase_cases (hphase.trans hp) n, ?_, ?_, herr, hd⟩
  · rw [State.countPixels_pcnt, hpcnt, hc]
  · rw [State.countPixels_pcnt, State.npix_countPixels, hpcnt, hnpix, hc]
    exact hi.room hp hn

/-- What counting leaves to show of the invariant: the slots, the run counter, and the clauses of the mode. -/
theorem Counted.inv {n : Nat} (h : Counted s t n) (hi : s.Inv)
    (slots : ∀ j, t.slot j = Config.defaultPixel ∨ pixelHash (t.slot j) = j)
    (runBound : t.run.toNat ≤ 61) (trailerRun : t.pcnt = t.npix → t.run = 0)
    (encoder : t.mode = .encode → t.slot (pixelHash t.prev) = t.prev ∧
      t.pcnt.toNat ≤ t.pixIn.length ∧ t.run.toNat ≤ t.pcnt.toNat ∧
        ∀ k, t.pcnt.toNat - t.run.toNat ≤ k → k < t.pcnt.toNat → (t.pixIn[k]?).map pixelOfWord = some t.prev)
    (decoder : t.mode = .decode → t.run = 0 ∧ t.pixOut.length = t.pcnt.toNat ∧ 14 ≤ t.bpos ∧ t.bpos ≤ t.len) :
    t.Inv where
  errIff := by
    have : t.err = none := h.err.trans (hi.err_none (by simp [h.body]))
    obtain ⟨hp, -⟩ | ⟨hp, -⟩ := h.phase <;> simp [hp, this]
  slots := slots
  fresh hp := by obtain ⟨hq, -⟩ | ⟨hq, -⟩ := h.phase <;> simp [hq] at hp
  legal _ := h.descriptor ▸ hi.legal (.inl h.body)
  missing hp := by
    obtain ⟨-, hne⟩ | ⟨hq, -⟩ := h.phase
    · exact lt_of_le_of_ne h.room fun e => hne (BitVec.eq_of_toNat_eq e)
    · simp [hq] at hp
  complete hp := by
    obtain ⟨hq, -⟩ | ⟨-, heq⟩ := h.phase
    · simp [hq] at hp
    · exact heq
  runBound _ := runBound
  decodeRun _ hm := (decoder hm).1
  pendingRun _ hm := (encoder hm).2
  trailerRun hp := by
    obtain ⟨hq, -⟩ | ⟨-, heq⟩ := h.phase
    · simp [hq] at hp
    · exact trailerRun heq
  ownSlot _ hm := (encoder hm).1
  putCount _ hm := (decoder hm).2.1
  position _ hm := (decoder hm).2.2

/-- A store puts a pixel into the slot of its hash. -/
theorem State.Inv.slots_of_cache (h : s.Inv) {px : Pixel} (hc : s.KeptOrStored px t.cache)
    (j : Slot) : t.slot j = Config.defaultPixel ∨ pixelHash (t.slot j) = j := by
  obtain hc | hc := hc
  · exact State.slot_congr hc j ▸ h.slots j
  · rw [State.slot_congr hc, State.slot_store]
    split
    · exact .inr (Eq.symm ‹_›)
    · exact h.slots j

/-! ### The chunks of the decoder -/

theorem State.Inv.chunkDone (h : s.Inv) (hm : s.mode = .decode) (hp : s.phase = .body) {cache : Vector Pixel 64}
    {px : Pixel} {n len : Nat} (hc : s.KeptOrStored px cache)
    (hn : s.Countable n) (fits : s.bpos ≤ s.len → s.bpos + len ≤ s.len) :
    (s.chunkDone cache px n len).Inv := by
  have hrun : s.run = 0 := h.decodeRun (.inl hp) hm
  have hput := h.putCount (.inl (.inl hp)) hm
  obtain ⟨hpos, hlen⟩ := h.position (.inl hp) hm
  have counted : Counted s (s.chunkDone cache px n len) n :=
    have c := h.counted (u := (State.putPixels { s with cache := cache } n px).setPrev px) hp hn rfl rfl rfl rfl
    { c with }
  have put : (s.chunkDone cache px n len).pixOut.length = (s.chunkDone cache px n len).pcnt.toNat := by
    rw [counted.pcnt, State.chunkDone_pixOut, List.length_append, List.length_replicate, hput]
  exact counted.inv h (h.slots_of_cache hc) (h.runBound (.inl hp)) (fun _ => hrun)
    (fun he => nomatch hm.symm.trans he) fun _ => ⟨hrun, put, hpos.trans (Nat.le_add_right _ _), fits hlen⟩

/-! ### The pixel step of the encoder -/

/-- What the pixel step has done with the pixel `px` before it counts it, from a state whose run is at most 61. -/
structure PixelCoded (s : State) (px : Pixel) (u : State) : Prop extends CodingFrame s u where
  taken : s.nextPixel = some px
  prev : u.prev = px
  cache : s.KeptOrStored px u.cache
  run : u.run = 0 ∨ px = s.prev ∧ u.run = s.run + 1 ∧ ¬ s.flushesNow
  ownSlot : s.slot (pixelHash s.prev) = s.prev → u.slot (pixelHash px) = px

theorem State.nextPixel_taken {px : Pixel} (h : s.nextPixel = some px) : s.pcnt.toNat < s.pixIn.length := by
  obtain ⟨w, hw, -⟩ := Option.map_eq_some_iff.1 h
  exact (List.getElem?_eq_some_iff.1 hw).1

@[simp] theorem State.remember_prev (s : State) (px : Pixel) : (s.remember px).prev = px := rfl

@[simp] theorem State.remember_run (s : State) (px : Pixel) : (s.remember px).run = s.run := by
  unfold State.remember
  split <;> rfl

theorem State.remember_cache (s : State) (px : Pixel) :
    s.KeptOrStored px (s.remember px).cache := by
  unfold State.remember
  split
  · exact .inl rfl
  · exact .inr rfl

/-- Rules 3 and 4 leave the pixel in its slot, by an index hit or by a store (`41_chunk_encoder.md` R89, R94). -/
theorem State.slot_remember_self (s : State) (px : Pixel) : (s.remember px).slot (pixelHash px) = px := by
  unfold State.remember
  split
  · exact (s.lookup_iff px).1 ‹_›
  · exact s.slot_store_self px

/-- The pixel step at a step boundary: the error entry, or a coded pixel that is then counted. -/
theorem encodePixel_coded (h : s.run.toNat ≤ 61) (he : encodePixel s = .next t) :
    (s.nextPixel = none ∧ t = s.raise .pixelCountMismatch) ∨ ∃ px u, PixelCoded s px u ∧ t = u.countPixels 1 := by
  obtain ⟨hp, e⟩ | ⟨hp, hf, e⟩ | ⟨hp, hf, e⟩ | ⟨px, hp, hne, e⟩ := encodePixel_cases h <;>
    obtain rfl := next_inj.1 (he.symm.trans e)
  · exact .inl ⟨hp, rfl⟩
  · refine .inr ⟨s.prev, (s.emit (encode (.run (s.run.toNat + 1)))).setRun 0, ?_, rfl⟩
    exact ⟨.of_coded s _ _ _ _, hp, rfl, .inl rfl, .inl rfl, id⟩
  · refine .inr ⟨s.prev, s.setRun (s.run + 1), ?_, rfl⟩
    exact ⟨.of_coded s _ _ _ _, hp, rfl, .inl rfl, .inr ⟨rfl, rfl, hf⟩, id⟩
  · refine .inr ⟨px, ((s.setRun 0).remember px).emit (s.pendingBytes ++ encode (s.chunkFor px)), ?_, rfl⟩
    have frame : CodingFrame s ((s.setRun 0).remember px) :=
      (CodingFrame.of_coded s _ _ _ _).trans ((s.setRun 0).remember_frame px)
    exact ⟨frame.trans (.of_coded _ _ _ _ _), hp, rfl, (s.setRun 0).remember_cache px,
      .inl ((s.setRun 0).remember_run px), fun _ => (s.setRun 0).slot_remember_self px⟩

/-- The pixel that completes the image flushes the run (`41_chunk_encoder.md` R86). -/
theorem PixelCoded.run_zero_of_final {px : Pixel} (h : PixelCoded s px u) (hf : s.pcnt + 1 = s.npix) : u.run = 0 :=
  h.run.resolve_right fun ⟨_, _, hn⟩ => hn (.inr (by rw [← hf, BitVec.add_sub_cancel]))

theorem PixelCoded.run_le {px : Pixel} (h : PixelCoded s px u) (hr : s.run.toNat ≤ 61) : u.run.toNat ≤ 61 := by
  obtain h0 | ⟨-, h1, hn⟩ := h.run
  · simp [h0]
  · have : s.run.toNat + 1 ≠ 62 := fun e => hn (.inl e)
    rw [h1, run_succ_toNat hr]
    omega

/-- After the step the last RUN pixels taken are PREV again: none, or those before it and one more (R25 (c)). -/
theorem PixelCoded.pending {px : Pixel} (h : PixelCoded s px u) (hi : s.Inv) (hm : s.mode = .encode)
    (hp : s.phase = .body) : u.run.toNat ≤ s.pcnt.toNat + 1 ∧
      ∀ k, s.pcnt.toNat + 1 - u.run.toNat ≤ k → k < s.pcnt.toNat + 1 → (s.pixIn[k]?).map pixelOfWord = some px := by
  obtain ⟨-, hle, hpend⟩ := hi.pendingRun (.inl hp) hm
  obtain h0 | ⟨rfl, h1, -⟩ := h.run
  · simp only [h0]
    exact ⟨Nat.zero_le _, fun k hk hk' => absurd hk (Nat.not_le.2 hk')⟩
  · rw [h1, run_succ_toNat (hi.runBound (.inl hp))]
    refine ⟨by omega, fun k hk hk' => ?_⟩
    obtain rfl | hlt := Nat.eq_or_lt_of_le (Nat.le_of_lt_succ hk')
    · exact h.taken
    · exact hpend k (by omega) hlt

theorem PixelCoded.inv {px : Pixel} (h : PixelCoded s px u) (hi : s.Inv) (hm : s.mode = .encode)
    (hp : s.phase = .body) : (u.countPixels 1).Inv := by
  have counted := hi.counted hp (.inl rfl) h.phase h.pcnt h.err h.toCodingFrame.descriptor
  obtain ⟨hle, hpend⟩ := h.pending hi hm hp
  refine counted.inv hi (hi.slots_of_cache h.cache) (h.run_le (hi.runBound (.inl hp))) (fun e => ?_) (fun _ => ?_)
    fun hd => nomatch (hm.symm.trans h.mode.symm).trans hd
  · exact h.run_zero_of_final (by rw [← h.pcnt, ← h.toCodingFrame.npix]; exact e)
  · rw [counted.pcnt, State.countPixels_prev, State.countPixels_pixIn, State.countPixels_run, h.prev, h.pixIn]
    exact ⟨h.ownSlot (hi.ownSlot (.inl hp) hm), State.nextPixel_taken h.taken, hle, hpend⟩

/-! ### Every step -/

theorem PassEffect.inv (h : PassEffect s t) (hi : s.Inv) : t.Inv := by
  cases h with
  | wait _ => exact hi
  | raise k _ => exact hi.raise k
  | openEncode bs hm hp hl =>
    have hu : ((s.emit bs).setPhase .body).Unstarted := { hi.unstarted hp with }
    exact hu.inv_body rfl hl fun hd => nomatch hm.symm.trans hd
  | openDecode d _ hp hl fits =>
    have hu : (((s.setDescriptor d).setPos 14).setPhase .body).Unstarted := { hi.unstarted hp with }
    exact hu.inv_body rfl hl fun _ => ⟨le_rfl, fits⟩
  | pixel hm hp he _ =>
    obtain ⟨-, e⟩ | ⟨px, v, hv, e⟩ := encodePixel_coded (hi.runBound (.inl hp)) he
    · exact e ▸ hi.raise _
    · exact e ▸ hv.inv hi hm hp
  | chunk cache px n len hm hp hc hn fits => exact hi.chunkDone hm hp hc hn fits
  | closeEncode _ hp => exact hi.closed hp s.bpos _
  | closeDecode _ hp => exact hi.closed hp _ s.byteOut

theorem CommandEffect.inv {c : Command} (h : CommandEffect s c t) (hi : s.Inv) : t.Inv := by
  cases h with
  | startEncode d _ =>
    have hu : ((s.startPass.setMode .encode).setDescriptor d).Unstarted := { s.startPass_unstarted with }
    exact hu.inv_header rfl rfl rfl
  | startDecode _ =>
    have hu : (s.startPass.setMode .decode).forgetDescriptor.Unstarted := { s.startPass_unstarted with }
    exact hu.inv_header rfl rfl rfl
  | abort ha => exact hi.aborted ha
  | ignore _ => exact hi

/-- Settles O33, by the effects a step can have: each of them keeps the invariant of the boundary state. -/
theorem everyStepKeepsTheInvariant : Obligations.EveryStepKeepsTheInvariant := by
  intro s t hi h
  cases step_effect h with
  | command _ hc => exact hc.inv hi.boundary
  | pass _ hp => exact hp.inv hi.boundary

end Sys2Proof.Machine
end

section
/-! The streams and the port words (`20_memory.md`): inputs are never written, outputs only grow at their end, and a pixel is
one 32-bit word. -/

namespace Sys2Proof.Machine

open Sys2Proof

variable {s t : State}

/-! ### The bytes of the encoder's parts -/

theorem flushRun_byteOut_prefix (h : flushRun s = .next t) : s.byteOut <+: t.byteOut := by
  obtain ⟨v, hv, ht⟩ := andThen_eq_next.1 h
  obtain ⟨-, rfl⟩ := emitRecord_next hv
  obtain rfl := next_inj.1 ht
  exact List.prefix_append _ _

theorem continueRun_byteOut_prefix (h : continueRun s = .next t) : s.byteOut <+: t.byteOut := by
  unfold continueRun at h
  simp only at h
  split at h
  · simpa using flushRun_byteOut_prefix h
  · exact next_inj.1 h ▸ List.prefix_rfl

theorem flushPending_byteOut_prefix (h : flushPending s = .next t) : s.byteOut <+: t.byteOut := by
  unfold flushPending at h
  split at h
  · exact next_inj.1 h ▸ List.prefix_rfl
  · exact flushRun_byteOut_prefix h

@[simp] theorem State.remember_byteOut (s : State) (px : Pixel) : (s.remember px).byteOut = s.byteOut := by
  unfold State.remember
  split <;> rfl

theorem codePixel_byteOut_prefix {px : Pixel} (h : codePixel px s = .next t) : s.byteOut <+: t.byteOut := by
  rw [codePixel_eq, next_inj] at h
  rw [← h, State.emit_byteOut, State.remember_byteOut]
  exact List.prefix_append _ _

/-- A pixel step never takes a byte back, whatever RUN holds. -/
theorem encodePixel_byteOut_prefix (h : encodePixel s = .next t) : s.byteOut <+: t.byteOut := by
  unfold encodePixel at h
  split at h
  · exact next_inj.1 h ▸ List.prefix_rfl
  · obtain ⟨u, hu, ht⟩ := andThen_eq_next.1 h
    obtain rfl := next_inj.1 ht
    rw [State.countPixels_byteOut]
    split at hu
    · exact continueRun_byteOut_prefix hu
    · obtain ⟨v, hv, hu⟩ := andThen_eq_next.1 hu
      exact (flushPending_byteOut_prefix hv).trans (codePixel_byteOut_prefix hu)

/-! ### The streams over a step -/

/-- BYTE_IN, PIX_IN and the parameters are the same in both states. -/
def SameInputs (s t : State) : Prop := t.byteIn = s.byteIn ∧ t.pixIn = s.pixIn ∧ t.params = s.params

theorem CommandEffect.sameInputs {c : Command} (h : CommandEffect s c t) : SameInputs s t := by
  cases h <;> exact ⟨rfl, rfl, rfl⟩

theorem PassEffect.sameInputs (h : PassEffect s t) : SameInputs s t := by
  cases h with
  | pixel _ _ _ hu => exact ⟨hu.byteIn, hu.pixIn, hu.params⟩
  | _ => exact ⟨rfl, rfl, rfl⟩

/-- No step, START and ABORT included, writes an input stream or a parameter (`20_memory.md` R44). -/
theorem step_sameInputs (h : step s = .next t) : SameInputs s t := by
  cases step_effect h with
  | command _ hc => exact hc.sameInputs
  | pass _ hp => exact hp.sameInputs

theorem PassEffect.byteOut_prefix (h : PassEffect s t) : s.byteOut <+: t.byteOut := by
  cases h with
  | openEncode bs _ _ _ => exact List.prefix_append _ _
  | closeEncode _ _ => exact List.prefix_append _ _
  | pixel _ _ he _ => exact encodePixel_byteOut_prefix he
  | _ => exact List.prefix_rfl

theorem PassEffect.pixOut_prefix (h : PassEffect s t) : s.pixOut <+: t.pixOut := by
  cases h with
  | pixel _ _ _ hu => exact hu.pixOut ▸ List.prefix_rfl
  | chunk cache px n len _ _ _ _ _ => exact List.prefix_append _ _
  | _ => exact List.prefix_rfl

/-- An encode pass puts no pixel. -/
theorem PassEffect.pixOut_of_encode (h : PassEffect s t) (hm : s.mode = .encode) : t.pixOut = s.pixOut := by
  cases h with
  | pixel _ _ _ hu => exact hu.pixOut
  | chunk cache px n len hd _ _ _ _ => exact nomatch hm.symm.trans hd
  | _ => rfl

/-- A decode pass emits no byte and leaves RUN alone (`10_state.md` R12). -/
theorem PassEffect.byteOut_run_of_decode (h : PassEffect s t) (hm : s.mode = .decode) :
    t.byteOut = s.byteOut ∧ t.run = s.run := by
  cases h with
  | openEncode bs he _ _ => exact nomatch hm.symm.trans he
  | pixel he _ _ _ => exact nomatch hm.symm.trans he
  | closeEncode he _ => exact nomatch hm.symm.trans he
  | _ => exact ⟨rfl, rfl⟩

/-- What a step without START does to the output streams and RUN. -/
structure OutputsGrow (s t : State) : Prop where
  bytes : s.byteOut <+: t.byteOut
  pixels : s.pixOut <+: t.pixOut
  encode : s.mode = .encode → t.pixOut = s.pixOut
  decode : s.mode = .decode → t.byteOut = s.byteOut ∧ t.run = s.run

theorem OutputsGrow.of_same (hb : t.byteOut = s.byteOut) (hp : t.pixOut = s.pixOut) (hr : t.run = s.run) :
    OutputsGrow s t :=
  ⟨hb ▸ List.prefix_rfl, hp ▸ List.prefix_rfl, fun _ => hp, fun _ => ⟨hb, hr⟩⟩

theorem PassEffect.outputsGrow (h : PassEffect s t) : OutputsGrow s t :=
  ⟨h.byteOut_prefix, h.pixOut_prefix, h.pixOut_of_encode, h.byteOut_run_of_decode⟩

theorem step_outputsGrow (h : step s = .next t) (hs : ¬ s.startOffered) : OutputsGrow s t := by
  obtain ⟨hst, -⟩ | ⟨-, rfl | ⟨-, rfl⟩⟩ | hp := step_split h
  · exact absurd hst hs
  · exact .of_same rfl rfl rfl
  · exact .of_same rfl rfl rfl
  · exact { hp.outputsGrow with }

/-- Settles O29: no effect of a step writes an input, and those of a step other than START append to the output of their
mode at most. -/
theorem streamsFlowOneWay : Obligations.StreamsFlowOneWay := by
  intro s t h
  obtain ⟨hbytes, hpixels, hparams⟩ := step_sameInputs h
  refine ⟨hbytes, hpixels, hparams, fun hs => ?_⟩
  obtain ⟨⟨bs, hbs⟩, ⟨ws, hws⟩, hencode, hdecode⟩ := step_outputsGrow h hs
  exact ⟨⟨bs, hbs.symm⟩, ⟨ws, hws.symm⟩, hencode, hdecode⟩

/-! ### The port word of a pixel -/

/-- A byte appended below a word makes the word 256 times as large and adds the byte. -/
theorem toNat_append_byte {w : Nat} (x : BitVec w) (b : Byte) : (x ++ b).toNat = x.toNat * 2 ^ 8 + b.toNat := by
  rw [BitVec.toNat_append, ← Nat.shiftLeft_add_eq_or_of_lt b.isLt, Nat.shiftLeft_eq]

theorem wordOfPixel_toNat (p : Pixel) : (wordOfPixel p).toNat =
    p.r.toNat + p.g.toNat * 2 ^ 8 + p.b.toNat * 2 ^ 16 + p.a.toNat * 2 ^ 24 := by
  simp only [wordOfPixel, toNat_append_byte]
  omega

/-- Settles O55: the number of the word by its appended bytes, and the two inverses. -/
theorem pixelWordPacking : Obligations.PixelWordPacking :=
  ⟨wordOfPixel_toNat, pixelOfWord_wordOfPixel, wordOfPixel_pixelOfWord⟩

end Sys2Proof.Machine
end

section
/-! The unpacker in arithmetic (`30_encoding.md` R51, `42_byte_packer_unpacker.md` R123 to R126): the fields of a byte by
division and remainder, and the chunk decoder by them. -/

namespace Sys2Proof

/-! ### The fields of a byte -/

@[simp] theorem bits_high_two (b : Byte) : bits b 7 6 = b.toNat / 64 :=
  Nat.mod_eq_of_lt (Nat.div_lt_of_lt_mul b.isLt)

@[simp] theorem bits_high_four (b : Byte) : bits b 7 4 = b.toNat / 16 :=
  Nat.mod_eq_of_lt (Nat.div_lt_of_lt_mul b.isLt)

/-- A field that begins at bit 0 is a remainder. -/
theorem bits_low (b : Byte) (hi : Nat) : bits b hi 0 = b.toNat % 2 ^ (hi + 1) := by
  rw [bits, Nat.pow_zero, Nat.div_one, Nat.sub_zero]

/-! ### The chunks without a raw pixel, by their fields -/

theorem decodeRun_eq (t : Byte) : decodeRun t = .run (t.toNat % 64 + 1) := by
  rw [decodeRun, bits_low]
  rfl

theorem decodeIndex_eq (t : Byte) : decodeIndex t = .index (Fin.ofNat 64 (t.toNat % 64)) := by
  have field : bits t 5 0 = t.toNat % 64 % 64 := (bits_low t 5).trans (Nat.mod_mod _ 64).symm
  exact congrArg Instr.index (Fin.ext field)

theorem decodeDiff_eq (t : Byte) : decodeDiff t =
    .diff (((t.toNat / 16 % 4 : Nat) : Int) - 2) (((t.toNat / 4 % 4 : Nat) : Int) - 2)
      (((t.toNat % 4 : Nat) : Int) - 2) := by
  rw [decodeDiff, bits_low]
  rfl

theorem decodeLuma_cons (t u : Byte) (rest : List Byte) : decodeLuma t (u :: rest) =
    .ok (.luma (((t.toNat % 64 : Nat) : Int) - 32) (((u.toNat / 16 : Nat) : Int) - 8)
      (((u.toNat % 16 : Nat) : Int) - 8), rest) := by
  rw [decodeLuma, bits_low, bits_low, bits_high_four]
  rfl

/-! ### The first byte -/

/-- Settles O3: both sides ask the same questions of the first byte in the same order, and each kind has the fields of its
unpacker. -/
theorem firstByteSelectsTheChunk : Obligations.FirstByteSelectsTheChunk := by
  intro t x1 x2 x3 x4 rest
  have isRgba : t = 0xFF ↔ t.toNat = 255 := BitVec.toNat_eq
  have isRgb : t = 0xFE ↔ t.toNat = 254 := BitVec.toNat_eq
  simp only [decodeChunk_cons, isRgba, isRgb, bits_high_two]
  split_ifs
  · rfl
  · rfl
  · rw [decodeRun_eq]
  · rw [decodeIndex_eq]
  · rw [decodeDiff_eq]
  · rw [decodeLuma_cons]

end Sys2Proof
end

section
/-! The colour cache (`40_color_cache.md`): the hash in arithmetic, and what a store and a START leave in the slots. -/

namespace Sys2Proof.Machine

open Sys2Proof

variable {s t : State}

/-! ### The hash -/

/-- Settles O40: the definition's sum, and its value on the two worked examples. -/
theorem hashIsTheWeightedSum : Obligations.HashIsTheWeightedSum :=
  ⟨pixelHash_val, by decide, by decide⟩

/-- Settles O41: 64 divides 256, so the wraps of the byte sum and of its products do not reach the six low bits. -/
theorem hashFormedInEightBits : Obligations.HashFormedInEightBits := by
  intro p
  simp only [pixelHash_val, BitVec.toNat_add, BitVec.toNat_mul, BitVec.ofNat_eq_ofNat, BitVec.toNat_ofNat]
  omega

/-! ### Store and lookup -/

/-- A store leaves the slot of another hash alone. -/
theorem State.slot_store_of_ne (s : State) {p : Pixel} {j : Slot} (h : j ≠ pixelHash p) :
    (s.store p).slot j = s.slot j := by
  rw [State.slot_store, if_neg h]

/-- Settles O42: the two cases of a read after a store, and a record update of the cache alone. -/
theorem storeReplacesItsSlot : Obligations.StoreReplacesItsSlot :=
  fun s p => ⟨s.slot_store_self p, fun _ hj => s.slot_store_of_ne hj, rfl⟩

/-- The slot of a bucket answers to the pixel stored in it last and to no other. -/
theorem State.lookup_store_of_hash_eq (s : State) {p q : Pixel} (h : pixelHash p = pixelHash q) :
    (s.store q).lookup p = true ↔ q = p := by
  rw [State.lookup_iff, h, State.slot_store_self]

/-- Settles O44: the bucket of both answers to the pixel stored last. -/
theorem collisionsEvict : Obligations.CollisionsEvict := by
  intro s p q hne hh
  constructor
  · exact Bool.eq_false_iff.2 fun h => hne (((s.store p).lookup_store_of_hash_eq hh).1 h).symm
  · exact ((s.store p).lookup_store_of_hash_eq rfl).2 rfl

/-! ### The cache after START -/

/-- START leaves the default pixel in every slot (`70_reset_and_hazards.md` R190). -/
theorem CommandEffect.slot_of_start {c : Command} (h : CommandEffect s c t) (hc : c.isStart = true) (j : Slot) :
    t.slot j = Config.defaultPixel := by
  cases h with
  | startEncode d _ => exact s.slot_startPass j
  | startDecode _ => exact s.slot_startPass j
  | abort _ => cases hc
  | ignore _ => cases hc

/-- Settles O43: `lookup` is the comparison, and after START the slot it compares with holds the default pixel. -/
theorem lookupComparesItsSlot : Obligations.LookupComparesItsSlot := by
  refine ⟨State.lookup_iff, fun s t p ⟨c, ho, hc⟩ h => ?_⟩
  rw [step_of_offered ho] at h
  rw [State.lookup_iff, (command_next h).slot_of_start hc]
  exact eq_comm

end Sys2Proof.Machine
end


section
/-! The packer and the unpacker of a chunk, and the deltas of a pixel, one after the other: the decoder reads the record
that was packed (`42_byte_packer_unpacker.md` R130), and the deltas added to the previous pixel give the pixel back. -/

namespace Sys2Proof

/-! ### The packed tag bytes as numbers -/

/-- A byte formed from an integer in range has it as its number. -/
theorem toNat_ofInt_byte {x : Int} (h0 : 0 ≤ x) (h : x < 256) : ((BitVec.ofInt 8 x).toNat : Int) = x := by
  rw [BitVec.toNat_ofInt, Int.toNat_of_nonneg (Int.emod_nonneg _ (by decide))]
  exact Int.emod_eq_of_lt h0 h

theorem toNat_ofNat_byte {n : Nat} (h : n < 256) : (BitVec.ofNat 8 n).toNat = n := by
  rw [BitVec.toNat_ofNat]
  exact Nat.mod_eq_of_lt h

/-! ### The unpacker by the number of the tag byte -/

/-- The first byte selects the kind by its number, whatever follows it (`30_encoding.md` R51). -/
theorem decodeChunk_cons_toNat (t : Byte) (rest : List Byte) : decodeChunk (t :: rest) =
    if t.toNat = 255 then decodeRgba rest
    else if t.toNat = 254 then decodeRgb rest
    else if t.toNat / 64 = 3 then .ok (decodeRun t, rest)
    else if t.toNat / 64 = 0 then .ok (decodeIndex t, rest)
    else if t.toNat / 64 = 1 then .ok (decodeDiff t, rest)
    else decodeLuma t rest := by
  have isRgba : t = 0xFF ↔ t.toNat = 255 := BitVec.toNat_eq
  have isRgb : t = 0xFE ↔ t.toNat = 254 := BitVec.toNat_eq
  simp only [decodeChunk_cons, isRgba, isRgb, bits_high_two]

/-! ### Unpacking what was packed -/

theorem decodeChunk_encode_run {len : Nat} (h1 : 1 ≤ len) (h2 : len ≤ 62) (rest : List Byte) :
    decodeChunk (encode (.run len) ++ rest) = .ok (.run len, rest) := by
  have tag := toNat_ofNat_byte (n := 0xC0 + (len - 1)) (by omega)
  rw [encode, List.singleton_append, decodeChunk_cons_toNat, if_neg (by omega), if_neg (by omega), if_pos (by omega),
    decodeRun_eq, show (BitVec.ofNat 8 (0xC0 + (len - 1))).toNat % 64 + 1 = len by omega]

theorem decodeChunk_encode_index (i : Slot) (rest : List Byte) :
    decodeChunk (encode (.index i) ++ rest) = .ok (.index i, rest) := by
  have tag := toNat_ofNat_byte (n := 0x00 + i.val) (by omega)
  have slot : Fin.ofNat 64 ((BitVec.ofNat 8 (0x00 + i.val)).toNat % 64) = i := Fin.ext (by simp only [Fin.ofNat]; omega)
  rw [encode, List.singleton_append, decodeChunk_cons_toNat, if_neg (by omega), if_neg (by omega), if_neg (by omega),
    if_pos (by omega), decodeIndex_eq, slot]

theorem decodeChunk_encode_diff {dr dg db : Int} (h : (Instr.diff dr dg db).wellFormed = true) (rest : List Byte) :
    decodeChunk (encode (.diff dr dg db) ++ rest) = .ok (.diff dr dg db, rest) := by
  obtain ⟨hr, hg, hb⟩ := (wellFormed_diff dr dg db).1 h
  have tag := toNat_ofInt_byte (x := 0x40 + (dr + 2) * 16 + (dg + 2) * 4 + (db + 2)) (by omega) (by omega)
  rw [encode, List.singleton_append, decodeChunk_cons_toNat]
  generalize BitVec.ofInt 8 (0x40 + (dr + 2) * 16 + (dg + 2) * 4 + (db + 2)) = t at tag ⊢
  rw [if_neg (by omega), if_neg (by omega), if_neg (by omega), if_neg (by omega), if_pos (by omega), decodeDiff_eq,
    show ((t.toNat / 16 % 4 : Nat) : Int) - 2 = dr by omega, show ((t.toNat / 4 % 4 : Nat) : Int) - 2 = dg by omega,
    show ((t.toNat % 4 : Nat) : Int) - 2 = db by omega]

theorem decodeChunk_encode_luma {dg drg dbg : Int} (h : (Instr.luma dg drg dbg).wellFormed = true)
    (rest : List Byte) : decodeChunk (encode (.luma dg drg dbg) ++ rest) = .ok (.luma dg drg dbg, rest) := by
  obtain ⟨hg, hr, hb⟩ := (wellFormed_luma dg drg dbg).1 h
  have tag := toNat_ofInt_byte (x := 0x80 + (dg + 32)) (by omega) (by omega)
  have low := toNat_ofInt_byte (x := (drg + 8) * 16 + (dbg + 8)) (by omega) (by omega)
  rw [encode, List.cons_append, List.singleton_append, decodeChunk_cons_toNat]
  generalize BitVec.ofInt 8 (0x80 + (dg + 32)) = t at tag ⊢
  generalize BitVec.ofInt 8 ((drg + 8) * 16 + (dbg + 8)) = u at low ⊢
  rw [if_neg (by omega), if_neg (by omega), if_neg (by omega), if_neg (by omega), if_neg (by omega), decodeLuma_cons,
    show ((t.toNat % 64 : Nat) : Int) - 32 = dg by omega, show ((u.toNat / 16 : Nat) : Int) - 8 = drg by omega,
    show ((u.toNat % 16 : Nat) : Int) - 8 = dbg by omega]

/-- The unpacker reads the chunk that was packed and leaves the bytes after it (R130). -/
theorem decodeChunk_encode {i : Instr} (hw : i.wellFormed = true) (hp : i.place = .chunk) (rest : List Byte) :
    decodeChunk (encode i ++ rest) = .ok (i, rest) := by
  cases i with
  | rgba r g b a => rfl
  | rgb r g b => rfl
  | run len =>
    obtain ⟨h1, h2⟩ := (wellFormed_run len).1 hw
    exact decodeChunk_encode_run h1 h2 rest
  | index j => exact decodeChunk_encode_index j rest
  | diff dr dg db => exact decodeChunk_encode_diff hw rest
  | luma dg drg dbg => exact decodeChunk_encode_luma hw rest
  | header magic w h c s => cases hp
  | endMark => cases hp

/-- The packer's bytes are as many as the record's length (`30_encoding.md` R50, R57, R58). -/
theorem encode_length (i : Instr) : (encode i).length = i.length := by
  cases i <;> rfl

end Sys2Proof

namespace Sys2Proof.Machine

open Sys2Proof

/-! ### Wrapped arithmetic -/

theorem u8_add (x y : Int) : u8 (x + y) = u8 x + u8 y := BitVec.ofInt_add x y

theorem u8_sub (x y : Int) : u8 (x - y) = u8 x - u8 y := by
  rw [Int.sub_eq_add_neg, u8_add, BitVec.sub_eq_add_neg]
  exact congrArg (u8 x + ·) BitVec.ofInt_neg

theorem u8_toNat (c : Byte) : u8 (c.toNat : Int) = c := by
  rw [u8, BitVec.ofInt_natCast, BitVec.ofNat_toNat, BitVec.setWidth_eq]

/-- Wrapping does not change a number modulo 256. -/
theorem u8_wrap8 (x : Int) : u8 (wrap8 x) = u8 x := BitVec.ofInt_toInt

theorem addDelta_eq (c : Byte) (d : Int) : addDelta c d = c + u8 d := by
  rw [addDelta, u8_add, u8_toNat]

theorem u8_channelDelta (cur prev : Byte) : u8 (channelDelta cur prev) = cur - prev := by
  rw [channelDelta, u8_wrap8, u8_sub, u8_toNat, u8_toNat]

/-! ### The deltas give the pixel back -/

theorem addDelta_channelDelta (cur prev : Byte) : addDelta prev (channelDelta cur prev) = cur := by
  rw [addDelta_eq, u8_channelDelta, BitVec.add_comm, BitVec.sub_add_cancel]

/-- A delta split into a green part and a wrapped rest (`41_chunk_encoder.md` R82, R83 (d)). -/
theorem addDelta_add_wrap8_sub (cur prev : Byte) (dg : Int) :
    addDelta prev (dg + wrap8 (channelDelta cur prev - dg)) = cur := by
  rw [addDelta_eq, u8_add, u8_wrap8, u8_sub, u8_channelDelta, BitVec.add_comm (u8 dg), BitVec.sub_add_cancel,
    BitVec.add_comm, BitVec.sub_add_cancel]

theorem diffPixel_deltas {px prev : Pixel} (h : px.a = prev.a) :
    diffPixel (deltas px prev).dr (deltas px prev).dg (deltas px prev).db prev = px := by
  simp only [diffPixel, deltas, addDelta_channelDelta, ← h]

theorem lumaPixel_deltas {px prev : Pixel} (h : px.a = prev.a) :
    lumaPixel (deltas px prev).dg (deltas px prev).drg (deltas px prev).dbg prev = px := by
  simp only [lumaPixel, deltas, addDelta_channelDelta, addDelta_add_wrap8_sub, ← h]

end Sys2Proof.Machine
end

section
/-! A chunk in the decoder (`43_chunk_decoder.md` R141): the step that reads it, and what the chunks the encoder chooses
do in a state with the encoder's cache and previous pixel. -/

namespace Sys2Proof.Machine

open Sys2Proof

variable {s t : State}

/-! ### The step that reads a chunk -/

theorem State.offered_of_quiet (h : s.cmdIn = []) : s.offered = none := by
  simp [State.offered, h]

theorem State.boundary_of_quiet (h : s.cmdIn = []) : s.boundary = s := by
  rw [State.boundary, h, List.tail_nil, ← h]

theorem fetch_encode {i : Instr} {rest : List Byte} (hp : s.phase = .body) (hw : i.wellFormed = true)
    (hc : i.place = .chunk) (hb : s.unread s.bpos = encode i ++ rest) : fetch s = .ok i := by
  simp only [fetch, hp, fetchPlace, decodeAt, hb, decodeChunk_encode hw hc]

/-- With no command and a packed chunk next in its stream, the decoder executes that chunk. -/
theorem step_of_encoded {i : Instr} {rest : List Byte} (hq : s.cmdIn = []) (hm : s.mode = .decode)
    (hp : s.phase = .body) (hw : i.wellFormed = true) (hc : i.place = .chunk)
    (hb : s.unread s.bpos = encode i ++ rest) : step s = exec i s := by
  rw [step_of_quiet (State.offered_of_quiet hq), State.boundary_of_quiet hq]
  simp only [passStep, hp, hm, Phase.active, decodeStep, fetch_encode hp hw hc hb, ↓reduceIte]

/-! ### What the chunks do -/

/-- A RUN with room repeats PREV (R143). -/
theorem exec_run_of_room {len : Nat} (hm : s.mode = .decode) (hp : s.phase = .body) (h1 : 1 ≤ len) (h2 : len ≤ 62)
    (room : s.pcnt.toNat + len ≤ s.npix.toNat) : exec (.run len) s = .next (s.chunkDone s.cache s.prev len 1) := by
  obtain ⟨t, ht⟩ := exec_completes ((wellFormed_run len).2 ⟨h1, h2⟩) hm hp
  obtain ⟨-, -, -, hd⟩ := exec_next ht
  rw [ht, next_inj]
  cases hd with
  | runPut _ _ _ _ => rfl
  | runPast _ hr => omega

theorem missChunk_place (px prev : Pixel) : (missChunk px prev).place = .chunk := by
  simp only [missChunk]
  split_ifs <;> rfl

theorem chunkFor_place (s : State) (px : Pixel) : (s.chunkFor px).place = .chunk := by
  unfold State.chunkFor
  split
  · rfl
  · exact missChunk_place _ _

theorem alphaSame_iff (px prev : Pixel) : alphaSame px prev = true ↔ px.a = prev.a := decide_eq_true_iff

theorem alphaSame_of_diffOk {px prev : Pixel} (h : diffOk px prev = true) : px.a = prev.a := by
  simp only [diffOk, Bool.and_eq_true, alphaSame_iff] at h
  exact h.1.1.1

theorem alphaSame_of_lumaOk {px prev : Pixel} (h : lumaOk px prev = true) : px.a = prev.a := by
  simp only [lumaOk, Bool.and_eq_true, alphaSame_iff] at h
  exact h.1.1.1

/-- The chunk of a miss, of whatever kind, gives the decoder the pixel it was chosen for (R145 to R148). -/
theorem ExecDone.of_missChunk {px : Pixel} (h : ExecDone s (missChunk px s.prev) t) :
    t = s.storeAndYield px (missChunk px s.prev).length := by
  simp only [missChunk] at h ⊢
  split_ifs at h ⊢ with hd hl ha
  · cases h
    rw [diffPixel_deltas (alphaSame_of_diffOk hd)]; rfl
  · cases h
    rw [lumaPixel_deltas (alphaSame_of_lumaOk hl)]; rfl
  · cases h
    rw [← (alphaSame_iff px s.prev).1 ha]; rfl
  · cases h
    rfl

/-- The chunk rules 3 and 4 choose from a cache and a previous pixel, executed with the same cache and previous pixel:
the pixel is put once and remembered as the encoder remembers it. -/
theorem exec_chunkFor (hm : s.mode = .decode) (hp : s.phase = .body) (px : Pixel) : exec (s.chunkFor px) s =
    .next (s.chunkDone (s.remember px).cache px 1 (s.chunkFor px).length) := by
  have phase : s.phase = placePhase (s.chunkFor px).place := by rw [chunkFor_place, hp]; rfl
  obtain ⟨t, ht⟩ := exec_completes (chunkFor_wellFormed s px) hm phase
  obtain ⟨-, -, -, hd⟩ := exec_next ht
  rw [ht, next_inj]
  unfold State.chunkFor at hd ⊢
  unfold State.remember
  split_ifs at hd ⊢ with hl
  · cases hd
    rw [(s.lookup_iff px).1 hl]; rfl
  · exact hd.of_missChunk

end Sys2Proof.Machine
end

section
/-! The decoder of a stream beside its encoder (`40_color_cache.md` R79): one lemma for the point a chunk brings the
decoder to, then the chunks of a pixel step. -/

namespace Sys2Proof.Machine

open Sys2Proof

variable {e d t u : State} {rest : List Byte}

/-! ### Two states of the same cache and previous pixel -/

theorem State.lookup_congr (hc : d.cache = e.cache) (px : Pixel) : d.lookup px = e.lookup px := by
  simp only [State.lookup, State.slot_congr hc]

theorem State.chunkFor_congr (hc : d.cache = e.cache) (hp : d.prev = e.prev) (px : Pixel) :
    d.chunkFor px = e.chunkFor px := by
  simp only [State.chunkFor, State.lookup_congr hc, hp]

theorem State.remember_cache_congr (hc : d.cache = e.cache) (px : Pixel) :
    (d.remember px).cache = (e.remember px).cache := by
  unfold State.remember
  rw [State.lookup_congr hc]
  split_ifs
  · exact hc
  · exact congrArg (fun c => c.set (pixelHash px) px) hc

/-! ### The point after a chunk -/

/-- Words whose pixels are all `px`, taken from a list behind the ones before them. -/
theorem take_append_replicate {ws : List Word} {px : Pixel} {m n : Nat}
    (h : ∀ k, m ≤ k → k < m + n → (ws[k]?).map pixelOfWord = some px) :
    ws.take m ++ List.replicate n (wordOfPixel px) = ws.take (m + n) := by
  induction n with
  | zero => exact List.append_nil _
  | succ n ih =>
    obtain ⟨w, hw, rfl⟩ := Option.map_eq_some_iff.1 (h (m + n) (Nat.le_add_right m n) (Nat.lt_succ_self _))
    rw [List.replicate_succ', ← List.append_assoc, ih fun k h1 h2 => h k h1 (by omega), wordOfPixel_pixelOfWord,
      ← Nat.add_assoc, List.take_add_one, hw]
    rfl

theorem State.npix_of_descriptor (h : d.descriptor = e.descriptor) : d.npix = e.npix :=
  State.npix_congr (congrArg (·.width) h) (congrArg (·.height) h)

/-- The encoder comes from `e` to `t` by counting `k` pixels; the pending run of `e` and these pixels are all PREV of
`t`, and no run is pending in `t`. -/
structure Flushes (e t : State) (k : Nat) : Prop where
  mode : t.mode = e.mode
  cmdIn : t.cmdIn = e.cmdIn
  pixIn : t.pixIn = e.pixIn
  counted : Counted e t k
  run : t.run = 0
  run_le : e.run.toNat ≤ e.pcnt.toNat
  same : ∀ j, e.pcnt.toNat - e.run.toNat ≤ j → j < e.pcnt.toNat + k → (e.pixIn[j]?).map pixelOfWord = some t.prev

/-- The number of pixels the decoder has put, once it has put the pending run and the pixels counted. -/
theorem Flushes.pcnt {bytes : List Byte} {k : Nat} (hf : Flushes e t k) (h : Mirrors e d bytes) :
    d.pcnt + BitVec.ofNat 64 (e.run.toNat + k) = t.pcnt := by
  have hd : d.npix = t.npix := State.npix_of_descriptor (h.descriptors.trans hf.counted.descriptor.symm)
  have hcount : d.pcnt.toNat + (e.run.toNat + k) = t.pcnt.toNat := by
    rw [← Nat.add_assoc, h.counts, hf.counted.pcnt]
  have room : d.pcnt.toNat + (e.run.toNat + k) ≤ d.npix.toNat := by
    rw [hcount, hd]
    exact hf.counted.room
  exact BitVec.eq_of_toNat_eq ((State.pcnt_add_toNat room).trans hcount)

/-- The decoder that puts the pending run and the pixels counted, and takes over CACHE and PREV, stands where the
encoder then does. -/
theorem Mirrors.chunkDone {bytes : List Byte} {k : Nat} (h : Mirrors e d (bytes ++ rest)) (hf : Flushes e t k) :
    Mirrors t (d.chunkDone t.cache t.prev (e.run.toNat + k) bytes.length) rest := by
  have hd : d.descriptor = t.descriptor := h.descriptors.trans hf.counted.descriptor.symm
  have hpcnt := hf.pcnt h
  have hbody : d.phase = .body := h.phases.2.trans hf.counted.body
  have hcounts := h.counts
  constructor
  case modes => exact ⟨hf.mode.trans h.modes.1, h.modes.2⟩
  case quiet => exact ⟨hf.cmdIn.trans h.quiet.1, h.quiet.2⟩
  case caches => rfl
  case prevs => rfl
  case descriptors => exact hd
  case phases =>
    have hphase : (d.chunkDone t.cache t.prev (e.run.toNat + k) bytes.length).phase =
        if t.pcnt = t.npix then .trailer else .body := by
      rw [← hpcnt, ← State.npix_of_descriptor hd, ← hbody]; rfl
    obtain ⟨hp, hne⟩ | ⟨hp, he⟩ := hf.counted.phase
    · exact ⟨.inl hp, hphase.trans ((if_neg hne).trans hp.symm)⟩
    · exact ⟨.inr hp, hphase.trans ((if_pos he).trans hp.symm)⟩
  case counts => rw [State.chunkDone_pcnt, hpcnt, hf.run]; rfl
  case pixels =>
    rw [State.chunkDone_pcnt, hpcnt, State.chunkDone_pixOut, h.pixels, hf.pixIn, hf.counted.pcnt, ← hcounts,
      Nat.add_assoc]
    exact take_append_replicate fun j h1 h2 => hf.same j (by omega) (by omega)
  case stream =>
    have hs : d.byteIn.drop d.bpos = bytes ++ rest := h.stream
    rw [State.chunkDone_bpos]
    exact List.drop_drop.symm.trans (hs ▸ List.drop_left)

/-! ### The chunks of a pixel step -/

/-- The decoder runs a RUN chunk over the pending run and the pixels counted, all of them PREV. -/
theorem Mirrors.step_run {k : Nat} (h : Mirrors e d (encode (.run (e.run.toNat + k)) ++ rest)) (hf : Flushes e t k)
    (h1 : 1 ≤ e.run.toNat + k) (h2 : e.run.toNat + k ≤ 62) (hc : t.cache = e.cache) (hp : t.prev = e.prev) :
    ∃ d', step d = .next d' ∧ Mirrors t d' rest := by
  have hbody : d.phase = .body := h.phases.2.trans hf.counted.body
  have room : d.pcnt.toNat + (e.run.toNat + k) ≤ d.npix.toNat := by
    rw [← Nat.add_assoc, h.counts, ← hf.counted.pcnt,
      State.npix_of_descriptor (h.descriptors.trans hf.counted.descriptor.symm)]
    exact hf.counted.room
  refine ⟨_, ?_, h.chunkDone hf⟩
  rw [step_of_encoded h.quiet.2 h.modes.2 hbody ((wellFormed_run _).2 ⟨h1, h2⟩) rfl h.stream,
    exec_run_of_room h.modes.2 hbody h1 h2 room, h.caches, h.prevs, hc, hp]
  rfl

/-- The decoder runs the chunk the encoder chooses for a pixel when no run is pending. -/
theorem Mirrors.step_chunkFor {px : Pixel} (h : Mirrors e d (encode (e.chunkFor px) ++ rest)) (hf : Flushes e t 1)
    (hr : e.run = 0) (hc : t.cache = (e.remember px).cache) (hp : t.prev = px) :
    ∃ d', step d = .next d' ∧ Mirrors t d' rest := by
  have hbody : d.phase = .body := h.phases.2.trans hf.counted.body
  refine ⟨_, ?_, h.chunkDone hf⟩
  rw [step_of_encoded h.quiet.2 h.modes.2 hbody (chunkFor_wellFormed e px) (chunkFor_place e px) h.stream,
    ← State.chunkFor_congr h.caches h.prevs, exec_chunkFor h.modes.2 hbody, hc, hp, hr, encode_length,
    State.remember_cache_congr h.caches]
  rfl

/-! ### The points of a pixel step -/

/-- Clearing the run counter keeps the invariant: no clause asks for a pending run. -/
theorem State.Inv.setRun_zero (h : e.Inv) : (e.setRun 0).Inv where
  errIff := h.errIff
  slots := h.slots
  fresh hp := by
    obtain ⟨hprev, hslots, -, hrest⟩ := h.fresh hp
    exact ⟨hprev, hslots, rfl, hrest⟩
  legal := h.legal
  missing := h.missing
  complete := h.complete
  runBound _ := Nat.zero_le _
  decodeRun _ _ := rfl
  pendingRun hp hm := ⟨(h.pendingRun hp hm).1, Nat.zero_le _, fun _ h1 h2 => absurd h1 (Nat.not_le.2 h2)⟩
  trailerRun _ := rfl
  ownSlot := h.ownSlot
  putCount := h.putCount
  position := h.position

/-- Rule 2 counts no pixel (`41_chunk_encoder.md` R87). -/
theorem State.Inv.flushes_pending (hi : e.Inv) (hm : e.mode = .encode) (hb : e.phase = .body) :
    Flushes e (e.setRun 0) 0 := by
  obtain ⟨-, hle, hpend⟩ := hi.pendingRun (.inl hb) hm
  have missing := hi.missing hb
  have counted : Counted e (e.setRun 0) 0 :=
    ⟨hb, .inl ⟨hb, fun he => absurd (congrArg BitVec.toNat he) (Nat.ne_of_lt missing)⟩, rfl, missing.le, rfl, rfl⟩
  exact ⟨rfl, rfl, rfl, counted, rfl, hle, hpend⟩

/-- A pixel step that leaves no run pending, after a pixel equal to PREV or with no run pending before. -/
theorem CodingFrame.flushes (hu : CodingFrame e u) (hi : e.Inv) (hm : e.mode = .encode) (hb : e.phase = .body)
    (hr : u.run = 0) (taken : e.nextPixel = some u.prev) (hs : e.run = 0 ∨ u.prev = e.prev) :
    Flushes e (u.countPixels 1) 1 := by
  obtain ⟨-, hle, hpend⟩ := hi.pendingRun (.inl hb) hm
  have counted := hi.counted hb (.inl rfl) hu.phase hu.pcnt hu.err hu.descriptor
  refine ⟨hu.mode, hu.cmdIn, hu.pixIn, counted, hr, hle, fun j h1 h2 => ?_⟩
  obtain rfl | hlt := Nat.eq_or_lt_of_le (Nat.le_of_lt_succ h2)
  · exact taken
  · obtain h0 | he := hs
    · rw [h0] at h1
      exact absurd h1 (Nat.not_le.2 hlt)
    · exact (hpend j h1 hlt).trans (congrArg some he.symm)

/-! ### The cases of a pixel step -/

theorem step_encodePixel (hq : e.cmdIn = []) (hm : e.mode = .encode) (hb : e.phase = .body) :
    step e = encodePixel e := by
  rw [step_of_quiet (State.offered_of_quiet hq), State.boundary_of_quiet hq]
  simp only [passStep, hb, hm, Phase.active, encodeStep, ↓reduceIte]

/-- The bytes of rule 2 bring the decoder to the pixels before the next chunk, in one step or none. -/
theorem Mirrors.flushPending (h : Mirrors e d (e.pendingBytes ++ rest)) (hi : e.Inv) (hb : e.phase = .body) :
    ∃ n d', n ≤ 1 ∧ runsTo n d d' ∧ Mirrors (e.setRun 0) d' rest := by
  have hle := hi.runBound (.inl hb)
  unfold State.pendingBytes at h
  split_ifs at h with h0
  · exact ⟨0, d, Nat.zero_le 1, runsTo_zero.2 rfl, { h with counts := h0 ▸ h.counts }⟩
  · have hpos : e.run.toNat ≠ 0 := fun e0 => h0 (BitVec.eq_of_toNat_eq e0)
    obtain ⟨d', hstep, hd'⟩ := h.step_run (hi.flushes_pending h.modes.1 hb) (by omega) (by omega) rfl rfl
    exact ⟨1, d', le_rfl, runsTo_one.2 hstep, hd'⟩

/-- Rule 1 when it flushes (R86): one RUN chunk over the pending run and the pixel. -/
theorem Mirrors.continueFlush (h : Mirrors e d (encode (.run (e.run.toNat + 1)) ++ rest)) (hi : e.Inv)
    (hb : e.phase = .body) (taken : e.nextPixel = some e.prev) (bytes : List Byte) :
    ∃ d', step d = .next d' ∧ Mirrors (State.countPixels ((e.emit bytes).setRun 0) 1) d' rest := by
  have hle := hi.runBound (.inl hb)
  have frame : CodingFrame e ((e.emit bytes).setRun 0) := .of_coded e _ _ _ _
  exact h.step_run (frame.flushes hi h.modes.1 hb rfl taken (.inr rfl)) (by omega) (by omega) rfl rfl

/-- Rule 1 when it does not flush: the decoder waits, the pixel joins the pending run. -/
theorem Mirrors.continueCount (h : Mirrors e d rest) (hi : e.Inv) (hb : e.phase = .body) (hf : ¬ e.flushesNow) :
    Mirrors (State.countPixels (e.setRun (e.run + 1)) 1) d rest := by
  have hcounts := h.counts
  have hrun := run_succ_toNat (hi.runBound (.inl hb))
  have hpcnt := State.pcnt_add_toNat (hi.room hb (.inl rfl))
  have hphase : (State.countPixels (e.setRun (e.run + 1)) 1).phase = .body :=
    (if_neg fun he : e.pcnt + 1 = e.npix => hf (.inr (by rw [← he, BitVec.add_sub_cancel]))).trans hb
  refine { h with phases := ⟨.inl hphase, h.phases.2.trans (hb.trans hphase.symm)⟩, counts := ?_ }
  rw [State.countPixels_run, State.countPixels_pcnt, State.setRun_run, State.setRun_pcnt, hrun, hpcnt]
  omega

/-- Rules 2 to 4 (R87, R89 to R93): the chunk of the pending run if there is one, then the chunk of the pixel. -/
theorem Mirrors.codePixel {px : Pixel} (h : Mirrors e d (e.pendingBytes ++ encode (e.chunkFor px) ++ rest))
    (hi : e.Inv) (hb : e.phase = .body) (taken : e.nextPixel = some px) :
    ∃ n d', n ≤ 2 ∧ runsTo n d d' ∧ Mirrors (e.coded px) d' rest := by
  rw [List.append_assoc] at h
  obtain ⟨n, d₁, hn, hrun, h₁⟩ := h.flushPending hi hb
  have frame : CodingFrame (e.setRun 0) (((e.setRun 0).remember px).emit (e.pendingBytes ++ encode (e.chunkFor px))) :=
    ((e.setRun 0).remember_frame px).trans (.of_coded _ _ _ _ _)
  have flushes := frame.flushes hi.setRun_zero h.modes.1 hb ((e.setRun 0).remember_run px) taken (.inl rfl)
  obtain ⟨d', hstep, hd'⟩ := h₁.step_chunkFor flushes rfl rfl rfl
  exact ⟨n + 1, d', Nat.succ_le_succ hn, runsTo_add hrun (runsTo_one.2 hstep), hd'⟩

theorem State.coded_byteOut (e : State) (px : Pixel) :
    (e.coded px).byteOut = e.byteOut ++ (e.pendingBytes ++ encode (e.chunkFor px)) := by
  rw [State.coded, State.countPixels_byteOut, State.emit_byteOut, State.remember_byteOut, State.setRun_byteOut]

/-- Settles O56: each case of the pixel step, with the bytes it emits. -/
theorem decoderMirrorsTheEncoder : Obligations.DecoderMirrorsTheEncoder := by
  intro e d e' emitted rest hi hb h hstep hok hbytes
  rw [step_encodePixel h.quiet.1 h.modes.1 hb] at hstep
  obtain ⟨-, he⟩ | ⟨hp, -, he⟩ | ⟨-, hf, he⟩ | ⟨px, hp, -, he⟩ := encodePixel_cases (hi.runBound (.inl hb)) <;>
    obtain rfl := next_inj.1 (he.symm.trans hstep)
  · exact absurd rfl hok
  · obtain rfl := List.append_cancel_left hbytes
    obtain ⟨d', hd, hm⟩ := h.continueFlush hi hb hp _
    exact ⟨1, d', by decide, runsTo_one.2 hd, hm⟩
  · obtain rfl : emitted = [] := List.self_eq_append_right.1 hbytes
    exact ⟨0, d, by decide, runsTo_zero.2 rfl, h.continueCount hi hb hf⟩
  · rw [State.coded_byteOut] at hbytes
    obtain rfl := List.append_cancel_left hbytes
    exact h.codePixel hi hb hp

end Sys2Proof.Machine
end

section
/-! The delta unit (`41_chunk_encoder.md` section 2): wrapped values in arithmetic, and the predicates of the selector. -/

namespace Sys2Proof.Machine

open Sys2Proof

variable {px prev : Pixel}

/-! ### Wrapped values -/

/-- `wrap8` picks the member of -128..127 that is congruent modulo 256 (`00_scope.md` R8). -/
theorem wrap8_spec (x : Int) : -128 ≤ wrap8 x ∧ wrap8 x ≤ 127 ∧ (wrap8 x - x) % 256 = 0 := by
  have value : wrap8 x = x.bmod 256 := BitVec.toInt_ofInt x
  have lower := Int.le_bmod (x := x) (m := 256) (by decide)
  have upper := Int.bmod_lt (x := x) (m := 256) (by decide)
  have congr := Int.emod_eq_emod_iff_emod_sub_eq_zero.1 (Int.bmod_emod (x := x) (m := 256))
  rw [value]
  exact ⟨by omega, by omega, congr⟩

/-- Settles O45: each of the five values is a wrapped difference. -/
theorem deltasAreWrappedDifferences : Obligations.DeltasAreWrappedDifferences :=
  fun _ _ => ⟨wrap8_spec _, wrap8_spec _, wrap8_spec _, wrap8_spec _, wrap8_spec _⟩

/-- Settles O46: what the deltas add to the previous pixel is the current one. -/
theorem deltasRestoreThePixel : Obligations.DeltasRestoreThePixel :=
  fun _ _ h => ⟨diffPixel_deltas h, fun _ => lumaPixel_deltas h⟩

/-! ### The predicates of the selector -/

theorem diffOk_iff (px prev : Pixel) : diffOk px prev = true ↔ px.a = prev.a ∧
    (-2 ≤ (deltas px prev).dr ∧ (deltas px prev).dr ≤ 1) ∧ (-2 ≤ (deltas px prev).dg ∧ (deltas px prev).dg ≤ 1) ∧
      (-2 ≤ (deltas px prev).db ∧ (deltas px prev).db ≤ 1) := by
  simp only [diffOk, Bool.and_eq_true, alphaSame_iff, inRange_iff, and_assoc]

theorem lumaOk_iff (px prev : Pixel) : lumaOk px prev = true ↔ px.a = prev.a ∧
    (-32 ≤ (deltas px prev).dg ∧ (deltas px prev).dg ≤ 31) ∧ (-8 ≤ (deltas px prev).drg ∧ (deltas px prev).drg ≤ 7) ∧
      (-8 ≤ (deltas px prev).dbg ∧ (deltas px prev).dbg ≤ 7) := by
  simp only [lumaOk, Bool.and_eq_true, alphaSame_iff, inRange_iff, and_assoc]

/-- Settles O47: the definitions, read as propositions. -/
theorem selectorPredicates : Obligations.SelectorPredicates :=
  fun px prev => ⟨alphaSame_iff px prev, diffOk_iff px prev, lumaOk_iff px prev⟩

/-- A difference from green that a wrap would move by 256 is out of the range of LUMA before and after it: a channel
delta less a green one of -32..31 is in -159..160 (R84). -/
theorem wrap8_luma_range {d dg : Int} (hd : -128 ≤ d ∧ d ≤ 127) (hg : -32 ≤ dg ∧ dg ≤ 31) :
    (-8 ≤ wrap8 (d - dg) ∧ wrap8 (d - dg) ≤ 7) ↔ (-8 ≤ d - dg ∧ d - dg ≤ 7) := by
  obtain ⟨lower, upper, congr⟩ := wrap8_spec (d - dg)
  omega

theorem channelDelta_range (cur prev : Byte) : -128 ≤ channelDelta cur prev ∧ channelDelta cur prev ≤ 127 := by
  obtain ⟨lower, upper, -⟩ := wrap8_spec ((cur.toNat : Int) - prev.toNat)
  exact ⟨lower, upper⟩

theorem lumaTest_unwrapped (px prev : Pixel) (hg : -32 ≤ (deltas px prev).dg ∧ (deltas px prev).dg ≤ 31) :
    ((-8 ≤ (deltas px prev).drg ∧ (deltas px prev).drg ≤ 7) ↔
      (-8 ≤ (deltas px prev).dr - (deltas px prev).dg ∧ (deltas px prev).dr - (deltas px prev).dg ≤ 7)) ∧
    ((-8 ≤ (deltas px prev).dbg ∧ (deltas px prev).dbg ≤ 7) ↔
      (-8 ≤ (deltas px prev).db - (deltas px prev).dg ∧ (deltas px prev).db - (deltas px prev).dg ≤ 7)) :=
  ⟨wrap8_luma_range (channelDelta_range _ _) hg, wrap8_luma_range (channelDelta_range _ _) hg⟩

/-- Three deltas in -2..1 differ from one another by 3 at most, well inside the range of LUMA (R83 (c)). -/
theorem lumaOk_of_diffOk (h : diffOk px prev = true) : lumaOk px prev = true := by
  obtain ⟨ha, hr, hg, hb⟩ := (diffOk_iff px prev).1 h
  have green : -32 ≤ (deltas px prev).dg ∧ (deltas px prev).dg ≤ 31 := by omega
  obtain ⟨red, blue⟩ := lumaTest_unwrapped px prev green
  exact (lumaOk_iff px prev).2 ⟨ha, green, red.2 (by omega), blue.2 (by omega)⟩

/-- Settles O48: DIFF is the narrower test, and no wrap decides that of LUMA. -/
theorem lumaTestNeedsNoWrap : Obligations.LumaTestNeedsNoWrap :=
  fun px prev => ⟨lumaOk_of_diffOk, fun h1 h2 => lumaTest_unwrapped px prev ⟨h1, h2⟩⟩

end Sys2Proof.Machine
end

section
/-! The steps of the encoder one by one (`41_chunk_encoder.md` sections 3 and 5): what the framing steps answer, what a
pixel step adds to BYTE_OUT and writes into the cache, and the rules of the selector. -/

namespace Sys2Proof.Machine

open Sys2Proof

variable {s t u : State} {px prev : Pixel}

/-! ### The step of an encode pass -/

/-- With no command an active encode pass takes the encoder's step of its phase. -/
theorem step_encodeStep (ho : s.offered = none) (hm : s.mode = .encode) (ha : s.phase.active = true) :
    step s = encodeStep s.boundary := by
  rw [step_of_quiet ho, passStep, State.boundary_phase, if_pos ha, State.boundary_mode, hm]

theorem step_encodeHeader (ho : s.offered = none) (hm : s.mode = .encode) (hp : s.phase = .header) :
    step s = encodeHeader s.boundary := by
  rw [step_encodeStep ho hm (by rw [hp]; rfl), encodeStep, State.boundary_phase, hp]

theorem step_encodePixel_boundary (ho : s.offered = none) (hm : s.mode = .encode) (hp : s.phase = .body) :
    step s = encodePixel s.boundary := by
  rw [step_encodeStep ho hm (by rw [hp]; rfl), encodeStep, State.boundary_phase, hp]

theorem step_encodeTrailer (ho : s.offered = none) (hm : s.mode = .encode) (hp : s.phase = .trailer) :
    step s = encodeTrailer s.boundary := by
  rw [step_encodeStep ho hm (by rw [hp]; rfl), encodeStep, State.boundary_phase, hp]

/-! ### The framing steps -/

theorem encodeHeader_legal (h : s.descriptor.legal = true) : encodeHeader s = .next ((s.emit (encode
    (.header s.params.magic s.width s.height s.channels s.colorspace))).setPhase .body) :=
  (if_pos h).trans (by rw [emitRecord_of_wellFormed rfl, andThen_next])

theorem encodeHeader_illegal (h : s.descriptor.legal = false) : encodeHeader s = .next (s.raise .malformedHeader) :=
  if_neg (Bool.eq_false_iff.1 h)

theorem encodeTrailer_ended (h : s.pixIn.length ≤ s.pcnt.toNat) :
    encodeTrailer s = .next ((s.emit (encode .endMark)).setPhase .done) :=
  (if_pos (decide_eq_true h)).trans (by rw [emitRecord_of_wellFormed rfl, andThen_next])

theorem encodeTrailer_surplus (h : s.pcnt.toNat < s.pixIn.length) :
    encodeTrailer s = .next (s.raise .pixelCountMismatch) :=
  if_neg fun hend => Nat.not_le.2 h (of_decide_eq_true hend)

theorem State.nextPixel_eq_none_iff (s : State) : s.nextPixel = none ↔ s.pixIn.length ≤ s.pcnt.toNat := by
  rw [State.nextPixel, Option.map_eq_none_iff, List.getElem?_eq_none_iff]

/-- Settles O52: the answers of the three steps of the encoder on a descriptor and on a source that has or has not
ended. -/
theorem encoderFramingSteps : Obligations.EncoderFramingSteps := by
  intro s ho hm
  refine ⟨fun hp hl => ?_, fun hp hl => ?_, fun hp hend => ?_, fun hp hlen => ?_⟩
  · exact (step_encodeHeader ho hm hp).trans (encodeHeader_legal (s := s.boundary) hl)
  · exact (step_encodeHeader ho hm hp).trans (encodeHeader_illegal (s := s.boundary) hl)
  · exact (step_encodeTrailer ho hm hp).trans (encodeTrailer_ended (s := s.boundary) hend)
  · obtain hp | hp := hp
    · exact (step_encodeTrailer ho hm hp).trans (encodeTrailer_surplus (s := s.boundary) (hlen.1 hp))
    · have ended : s.pixIn.length ≤ s.pcnt.toNat := Nat.not_lt.1 fun h => nomatch hp.symm.trans (hlen.2 h)
      exact (step_encodePixel_boundary ho hm hp).trans
        (encodePixel_ended (s := s.boundary) (s.nextPixel_eq_none_iff.2 ended))

/-! ### What a pixel step may do, whatever RUN holds -/

theorem State.emit_nil (s : State) : s.emit [] = s := by
  rw [State.emit, List.append_nil]

theorem flushRun_next (h : flushRun s = .next t) : t = (s.emit (encode (.run s.run.toNat))).setRun 0 := by
  obtain ⟨v, hv, ht⟩ := andThen_eq_next.1 h
  obtain ⟨-, rfl⟩ := emitRecord_next hv
  exact (next_inj.1 ht).symm

/-- Rule 1 emits one byte at most and writes RUN, nothing else (`41_chunk_encoder.md` R86). -/
theorem continueRun_next (h : continueRun s = .next t) : ∃ bs n, bs.length ≤ 1 ∧ t = (s.emit bs).setRun n := by
  unfold continueRun at h
  simp only at h
  split at h
  · rw [flushRun_next h, State.setRun_run]
    exact ⟨encode (.run (s.run + 1).toNat), 0, le_rfl, rfl⟩
  · exact ⟨[], s.run + 1, Nat.zero_le 1, by rw [s.emit_nil, ← next_inj.1 h]⟩

/-- Rule 2 emits one byte at most and writes RUN, nothing else (R87). -/
theorem flushPending_next (h : flushPending s = .next t) : ∃ bs n, bs.length ≤ 1 ∧ t = (s.emit bs).setRun n := by
  unfold flushPending at h
  split at h
  · exact ⟨[], s.run, Nat.zero_le 1, by rw [s.emit_nil, ← next_inj.1 h]; rfl⟩
  · exact ⟨_, 0, le_rfl, flushRun_next h⟩

theorem Instr.length_of_chunk {i : Instr} (h : i.place = .chunk) : 1 ≤ i.length ∧ i.length ≤ 5 := by
  cases i with
  | header _ _ _ _ _ => cases h
  | endMark => cases h
  | _ => simp [Instr.length]

/-- The chunk of a pixel has one to five bytes (`30_encoding.md` R50). -/
theorem encode_chunkFor_length (s : State) (px : Pixel) :
    1 ≤ (encode (s.chunkFor px)).length ∧ (encode (s.chunkFor px)).length ≤ 5 := by
  rw [encode_length]
  exact Instr.length_of_chunk (chunkFor_place s px)

/-- A pixel step that goes on adds six bytes at most, and of the cache it writes the slot of its pixel at most. -/
theorem encodePixel_grows (h : encodePixel s = .next t) (hp : s.nextPixel = some px) :
    s.KeptOrStored px t.cache ∧ ∃ bs, bs.length ≤ 6 ∧ t.byteOut = s.byteOut ++ bs := by
  simp only [encodePixel, hp] at h
  obtain ⟨u, hu, ht⟩ := andThen_eq_next.1 h
  obtain rfl := next_inj.1 ht
  split at hu
  · obtain ⟨bs, n, hbs, rfl⟩ := continueRun_next hu
    exact ⟨.inl rfl, bs, by omega, rfl⟩
  · obtain ⟨v, hv, hu⟩ := andThen_eq_next.1 hu
    obtain ⟨bs, n, hbs, rfl⟩ := flushPending_next hv
    rw [codePixel_eq, next_inj] at hu
    obtain ⟨-, hchunk⟩ := encode_chunkFor_length ((s.emit bs).setRun n) px
    refine ⟨hu ▸ ((s.emit bs).setRun n).remember_cache px,
      bs ++ encode (((s.emit bs).setRun n).chunkFor px), ?_, ?_⟩
    · rw [List.length_append]
      omega
    · rw [← hu, State.countPixels_byteOut, State.emit_byteOut, State.remember_byteOut]
      exact List.append_assoc _ _ _

/-- Settles O51: one byte of a run and five of a chunk are the most a pixel step adds. -/
theorem pixelStepEmitsAtMostSixBytes : Obligations.PixelStepEmitsAtMostSixBytes := by
  intro s t ho hm hp h
  rw [step_encodePixel_boundary ho hm hp] at h
  cases hn : s.nextPixel with
  | none =>
    obtain rfl := next_inj.1 ((encodePixel_ended (s := s.boundary) hn).symm.trans h)
    exact ⟨le_rfl, Nat.le_add_right _ _⟩
  | some px =>
    obtain ⟨-, bs, hbs, hout⟩ := encodePixel_grows h hn
    have growth : t.olen = s.olen + bs.length := by
      rw [State.olen, hout, List.length_append]
      rfl
    omega

/-! ### The frame of a step -/

theorem EncoderFrame.refl (s : State) : EncoderFrame s s :=
  ⟨rfl, rfl, rfl, rfl, rfl, rfl, rfl, rfl, rfl, rfl, rfl⟩

theorem EncoderFrame.trans (h : EncoderFrame s t) (h' : EncoderFrame t u) : EncoderFrame s u where
  width := h'.width.trans h.width
  height := h'.height.trans h.height
  channels := h'.channels.trans h.channels
  colorspace := h'.colorspace.trans h.colorspace
  mode := h'.mode.trans h.mode
  bpos := h'.bpos.trans h.bpos
  byteIn := h'.byteIn.trans h.byteIn
  pixIn := h'.pixIn.trans h.pixIn
  pixOut := h'.pixOut.trans h.pixOut
  params := h'.params.trans h.params
  draws := h'.draws.trans h.draws

theorem State.KeptOrStored.slot_of_ne (h : s.KeptOrStored px t.cache) {j : Slot} (hj : j ≠ pixelHash px) :
    t.slot j = s.slot j := by
  obtain h | h := h
  · exact State.slot_congr h j
  · exact (State.slot_congr h j).trans (s.slot_store_of_ne hj)

/-- What a step of an encode pass leaves alone of the running state. -/
structure EncoderKeeps (s t : State) : Prop extends EncoderFrame s t where
  cmdIn : t.cmdIn = s.cmdIn
  err : t.phase ≠ .error → t.err = s.err
  running : s.phase ≠ .body → t.cache = s.cache ∧ t.prev = s.prev ∧ t.run = s.run ∧ t.pcnt = s.pcnt
  slots : ∀ px, s.nextPixel = some px → ∀ j, j ≠ pixelHash px → t.slot j = s.slot j

/-- PHASE and BYTE_OUT are all that a framing step writes unless it raises (`41_chunk_encoder.md` R101, R102). -/
theorem EncoderKeeps.of_framing (s : State) (p : Phase) (bytes : List Byte) :
    EncoderKeeps s { s with phase := p, byteOut := bytes } :=
  ⟨{ EncoderFrame.refl s with }, rfl, fun _ => rfl, fun _ => ⟨rfl, rfl, rfl, rfl⟩,
    fun _ _ _ _ => rfl⟩

theorem EncoderKeeps.of_raise (s : State) (k : ErrKind) : EncoderKeeps s (s.raise k) :=
  ⟨{ EncoderFrame.refl s with }, rfl, fun h => absurd rfl h,
    fun _ => ⟨rfl, rfl, rfl, rfl⟩, fun _ _ _ _ => rfl⟩

theorem PassEffect.encoderKeeps (h : PassEffect s t) (hm : s.mode = .encode) : EncoderKeeps s t := by
  cases h with
  | wait _ => exact .of_framing s s.phase s.byteOut
  | raise k _ => exact .of_raise s k
  | openEncode bs _ _ _ => exact .of_framing s .body (s.byteOut ++ bs)
  | closeEncode _ _ => exact .of_framing s .done (s.byteOut ++ encode .endMark)
  | pixel _ hp he hu =>
    exact ⟨{ hu.toEncoderFrame with }, hu.cmdIn, fun _ => hu.err, fun hb => absurd hp hb,
      fun px hn _ hj => (encodePixel_grows he hn).1.slot_of_ne hj⟩
  | openDecode _ hd _ _ _ => exact nomatch hm.symm.trans hd
  | chunk _ _ _ _ hd _ _ _ _ => exact nomatch hm.symm.trans hd
  | closeDecode hd _ => exact nomatch hm.symm.trans hd

/-- Settles O24: the effects of an encode pass on the boundary state, each with its frame. -/
theorem encoderStepFrame : Obligations.EncoderStepFrame := by
  intro s t ho hm _ h
  cases step_effect h with
  | command hc _ => exact nomatch ho.symm.trans hc
  | pass _ hp =>
    obtain ⟨frame, hcmd, herr, hrunning, hslots⟩ := hp.encoderKeeps (show s.boundary.mode = .encode from hm)
    obtain ⟨bs, hbs⟩ := hp.byteOut_prefix
    exact ⟨{ frame with }, hcmd, ⟨bs, hbs.symm⟩, herr, hrunning, hslots⟩

/-! ### The rules of the selector -/

/-- A pixel has been counted: what every rule of the pixel step does besides CACHE, PREV, RUN and BYTE_OUT (R85). -/
structure PixelCounted (s t : State) : Prop extends EncoderFrame s t where
  pcnt : t.pcnt = s.pcnt + 1
  phase : t.phase = if s.pcnt + 1 = s.npix then .trailer else .body
  err : t.err = s.err

theorem CodingFrame.pixelCounted (hu : CodingFrame s u) (hp : s.phase = .body) :
    PixelCounted s (u.countPixels 1) := by
  refine ⟨{ hu.toEncoderFrame with }, congrArg (· + 1) hu.pcnt, ?_, hu.err⟩
  rw [State.countPixels_phase, hu.pcnt, hu.npix, hu.phase, hp]
  rfl

theorem PixelCounted.of_boundary (h : PixelCounted s.boundary t) : PixelCounted s t := { h with }

theorem map_toNat_encode_run {n : Nat} (h : n ≤ 61) : (encode (.run (n + 1))).map BitVec.toNat = [0xC0 + n] := by
  rw [encode, List.map_singleton, Nat.add_sub_cancel, toNat_ofNat_byte (by omega)]

/-- Settles O49: both cases of rule 1 on the boundary state. -/
theorem equalPixelContinuesTheRun : Obligations.EqualPixelContinuesTheRun := by
  intro s ho hm hp hr hn
  rw [step_encodePixel_boundary ho hm hp]
  by_cases hf : s.flushesNow
  · have frame : CodingFrame s.boundary ((s.boundary.emit (encode (.run (s.run.toNat + 1)))).setRun 0) :=
      .of_coded _ _ _ _ _
    obtain ⟨kept, hpcnt, hphase, herr⟩ := (frame.pixelCounted hp).of_boundary
    refine ⟨_, encodePixel_flush (s := s.boundary) hr hn hf, fun _ => ⟨?_, rfl⟩, fun h => absurd hf h, rfl, rfl,
      hpcnt, hphase, herr, kept⟩
    exact List.map_append.trans (congrArg _ (map_toNat_encode_run hr))
  · have frame : CodingFrame s.boundary (s.boundary.setRun (s.run + 1)) := .of_coded _ _ _ _ _
    obtain ⟨kept, hpcnt, hphase, herr⟩ := (frame.pixelCounted hp).of_boundary
    exact ⟨_, encodePixel_count (s := s.boundary) hr hn hf, fun h => absurd h hf, fun _ => ⟨rfl, run_succ_toNat hr⟩,
      rfl, rfl, hpcnt, hphase, herr, kept⟩

theorem State.chunkFor_of_hit (h : s.lookup px = true) : s.chunkFor px = .index (pixelHash px) := if_pos h

theorem State.chunkFor_of_miss (h : s.lookup px = false) : s.chunkFor px = missChunk px s.prev :=
  if_neg (Bool.eq_false_iff.1 h)

theorem State.remember_cache_of_hit (h : s.lookup px = true) : (s.remember px).cache = s.cache := by
  rw [State.remember, if_pos h, State.setPrev_cache]

theorem State.remember_cache_of_miss (h : s.lookup px = false) : (s.remember px).cache = (s.store px).cache := by
  rw [State.remember, if_neg (Bool.eq_false_iff.1 h), State.setPrev_cache]

theorem StoresPixel.of_cache (h : t.cache = (s.store px).cache) : StoresPixel s t px :=
  ⟨(State.slot_congr h _).trans (s.slot_store_self px),
    fun j hj => (State.slot_congr h j).trans (s.slot_store_of_ne hj)⟩

theorem missChunk_of_diffOk (h : diffOk px prev = true) :
    missChunk px prev = .diff (deltas px prev).dr (deltas px prev).dg (deltas px prev).db := if_pos h

theorem missChunk_of_lumaOk (hd : diffOk px prev = false) (h : lumaOk px prev = true) :
    missChunk px prev = .luma (deltas px prev).dg (deltas px prev).drg (deltas px prev).dbg := by
  simp only [missChunk, hd, h, Bool.false_eq_true, ↓reduceIte]

theorem missChunk_of_alphaSame (hd : diffOk px prev = false) (hl : lumaOk px prev = false) (h : px.a = prev.a) :
    missChunk px prev = .rgb px.r px.g px.b := by
  simp only [missChunk, hd, hl, (alphaSame_iff px prev).2 h, Bool.false_eq_true, ↓reduceIte]

/-- A changed alpha leaves RGBA only: the other three tests ask for the same alpha (R84, R93). -/
theorem missChunk_of_alpha_ne (h : px.a ≠ prev.a) : missChunk px prev = .rgba px.r px.g px.b px.a := by
  simp only [missChunk, if_neg fun hd => h (alphaSame_of_diffOk hd), if_neg fun hl => h (alphaSame_of_lumaOk hl),
    if_neg fun ha => h ((alphaSame_iff px prev).1 ha)]

theorem State.coded_frame (s : State) (px : Pixel) :
    CodingFrame s (((s.setRun 0).remember px).emit (s.pendingBytes ++ encode (s.chunkFor px))) :=
  ((CodingFrame.of_coded s _ _ _ _).trans ((s.setRun 0).remember_frame px)).trans (.of_coded _ _ _ _ _)

theorem State.coded_cache (s : State) (px : Pixel) : (s.coded px).cache = (s.remember px).cache :=
  State.remember_cache_congr (d := s.setRun 0) (e := s) rfl px

theorem State.coded_run (s : State) (px : Pixel) : (s.coded px).run = 0 := (s.setRun 0).remember_run px

/-- Settles O50: rules 2 to 4 on the boundary state, by lookup and then by the selector. -/
theorem changedPixelIsCoded : Obligations.ChangedPixelIsCoded := by
  intro s px ho hm hp hr hn hne
  obtain ⟨kept, hpcnt, hphase, herr⟩ := ((s.boundary.coded_frame px).pixelCounted hp).of_boundary
  refine ⟨s.boundary.coded px, s.chunkFor px, ?_, ?_, fun hit => ?_, fun miss => ⟨?_, ?_⟩,
    s.boundary.coded_run px, rfl, hpcnt, hphase, herr, kept⟩
  · rw [step_encodePixel_boundary ho hm hp]
    exact encodePixel_change (s := s.boundary) hr hn hne
  · exact (s.boundary.coded_byteOut px).trans (List.append_assoc _ _ _).symm
  · exact ⟨State.chunkFor_of_hit hit,
      (s.boundary.coded_cache px).trans (State.remember_cache_of_hit (s := s.boundary) hit)⟩
  · exact .of_cache ((s.boundary.coded_cache px).trans (State.remember_cache_of_miss (s := s.boundary) miss))
  · rw [State.chunkFor_of_miss miss]
    exact ⟨missChunk_of_diffOk, missChunk_of_lumaOk, missChunk_of_alphaSame, missChunk_of_alpha_ne⟩

end Sys2Proof.Machine
end

section
/-! Runs of equal pixels and pixels seen before (`41_chunk_encoder.md` R97, R98). -/

namespace Sys2Proof.Machine

open Sys2Proof

variable {s t u : State} {p : Pixel} {k : Nat}

/-! ### The bytes of a run -/

/-- The chunks of a run of `n` pixels (R97): `Run(62)` for every 62 of them, then one RUN of the rest. -/
def runChunks (n : Nat) : List Byte :=
  List.replicate (n / 62) 0xFD ++ if n % 62 = 0 then [] else encode (.run (n % 62))

/-- A flush after the `k + 1`st pixel, when those before it have emitted their full chunks only. -/
theorem runChunks_succ (k : Nat) :
    List.replicate (k / 62) 0xFD ++ encode (.run (k % 62 + 1)) = runChunks (k + 1) := by
  unfold runChunks
  by_cases full : k % 62 = 61
  · rw [if_pos (by omega), show (k + 1) / 62 = k / 62 + 1 by omega, full, List.replicate_succ', List.append_nil]
    rfl
  · rw [if_neg (by omega), show (k + 1) / 62 = k / 62 by omega, show (k + 1) % 62 = k % 62 + 1 by omega]

/-! ### The run counter along a run -/

/-- `t` is reached from `s`, where no run is pending, by `k` pixels equal to PREV none of which is the final one: the full
chunks are out and the rest of the run is pending. -/
structure Repeated (s t : State) (k : Nat) : Prop extends EncoderFrame s t where
  quiet : t.cmdIn = []
  body : t.phase = .body
  prev : t.prev = s.prev
  pcnt : t.pcnt.toNat = s.pcnt.toNat + k
  run : t.run.toNat = k % 62
  bytes : t.byteOut = s.byteOut ++ List.replicate (k / 62) 0xFD

theorem Repeated.npix (h : Repeated s t k) : t.npix = s.npix := State.npix_congr h.width h.height

theorem Repeated.run_le (h : Repeated s t k) : t.run.toNat ≤ 61 := by
  rw [h.run]
  omega

theorem Repeated.nextPixel (h : Repeated s t k) :
    t.nextPixel = (s.pixIn[s.pcnt.toNat + k]?).map pixelOfWord := by
  rw [State.nextPixel, h.pixIn, h.pcnt]

theorem State.repeated_zero (hq : s.cmdIn = []) (hp : s.phase = .body) (hr : s.run = 0) : Repeated s s 0 :=
  ⟨.refl s, hq, hp, rfl, rfl, by rw [hr]; rfl, (List.append_nil _).symm⟩

/-- Which of the pixels of the image is the final one, by numbers. -/
theorem Repeated.final_iff (h : Repeated s t k) (room : s.pcnt.toNat + k < s.npix.toNat) :
    t.pcnt = t.npix - 1 ↔ s.pcnt.toNat + k + 1 = s.npix.toNat := by
  have := s.npix.isLt
  rw [h.npix, ← BitVec.toNat_inj, BitVec.toNat_sub, h.pcnt, show (1 : Count).toNat = 1 from rfl]
  omega

/-- Counting one pixel that is not the final one, in a state `u` that differs from `t` by what rule 1 writes. -/
theorem Repeated.count (h : Repeated s t k) (room : s.pcnt.toNat + k + 1 < s.npix.toNat) (hu : CodingFrame t u)
    (hprev : u.prev = t.prev) (hrun : u.run.toNat = (k + 1) % 62)
    (hbytes : u.byteOut = s.byteOut ++ List.replicate ((k + 1) / 62) 0xFD) :
    Repeated s (u.countPixels 1) (k + 1) := by
  have hpcnt : (t.pcnt + 1).toNat = s.pcnt.toNat + (k + 1) := by
    have hc : (t.pcnt + 1).toNat = t.pcnt.toNat + 1 :=
      State.pcnt_add_toNat (n := 1) (by rw [h.pcnt, h.npix]; omega)
    rw [hc, h.pcnt, Nat.add_assoc]
  obtain ⟨kept, hc, hphase, -⟩ := hu.pixelCounted h.body
  have hne : t.pcnt + 1 ≠ t.npix := fun e => by rw [e, h.npix] at hpcnt; omega
  exact ⟨h.toEncoderFrame.trans kept, hu.cmdIn.trans h.quiet, hphase.trans (if_neg hne), hprev.trans h.prev,
    hc ▸ hpcnt, hrun, hbytes⟩

/-- One more pixel equal to PREV that is not the final one (R86). -/
theorem Repeated.extend (h : Repeated s t k) (hm : s.mode = .encode) (room : s.pcnt.toNat + k + 1 < s.npix.toNat)
    (hn : t.nextPixel = some t.prev) : ∃ u, step t = .next u ∧ Repeated s u (k + 1) := by
  have notFinal : t.pcnt ≠ t.npix - 1 := fun e => by
    have := (h.final_iff (by omega)).1 e
    omega
  have hrun := h.run
  rw [step_encodePixel h.quiet (h.mode.trans hm) h.body]
  by_cases full : k % 62 = 61
  · refine ⟨_, encodePixel_flush h.run_le hn (.inl (by omega)), h.count room (.of_coded t _ _ _ _) rfl ?_ ?_⟩
    · exact show 0 = (k + 1) % 62 by omega
    · rw [State.setRun_byteOut, State.emit_byteOut, h.bytes, List.append_assoc, h.run, full,
        show (k + 1) / 62 = k / 62 + 1 by omega, List.replicate_succ']
      rfl
  · have noFlush : ¬ t.flushesNow := fun hf => hf.elim (by omega) notFinal
    refine ⟨_, encodePixel_count h.run_le hn noFlush, h.count room (.of_coded t _ _ _ _) rfl ?_ ?_⟩
    · rw [State.setRun_run, run_succ_toNat h.run_le]
      omega
    · rw [State.setRun_byteOut, h.bytes, show (k + 1) / 62 = k / 62 by omega]

/-- `L` pixels equal to PREV in front of the final one. -/
theorem runsTo_repeated (hq : s.cmdIn = []) (hm : s.mode = .encode) (hp : s.phase = .body) (hr : s.run = 0) (L : Nat)
    (room : s.pcnt.toNat + L < s.npix.toNat)
    (same : ∀ k, k < L → (s.pixIn[s.pcnt.toNat + k]?).map pixelOfWord = some s.prev) :
    ∃ t, runsTo L s t ∧ Repeated s t L := by
  induction L with
  | zero => exact ⟨s, runsTo_zero.2 rfl, State.repeated_zero hq hp hr⟩
  | succ L ih =>
    obtain ⟨t, hrun, h⟩ := ih (by omega) fun k hk => same k (by omega)
    have hn : t.nextPixel = some t.prev := by rw [h.nextPixel, same L (Nat.lt_succ_self L), h.prev]
    obtain ⟨u, hstep, hu⟩ := h.extend hm room hn
    exact ⟨u, runsTo_add hrun (runsTo_one.2 hstep), hu⟩

/-! ### The end of a run -/

theorem missChunk_ne_run (px prev : Pixel) (len : Nat) : missChunk px prev ≠ .run len := by
  simp only [missChunk]
  split_ifs <;> nofun

theorem State.chunkFor_ne_run (s : State) (px : Pixel) (len : Nat) : s.chunkFor px ≠ .run len := by
  unfold State.chunkFor
  split
  · nofun
  · exact missChunk_ne_run _ _ _

theorem Repeated.pendingBytes (h : Repeated s t k) :
    t.pendingBytes = if k % 62 = 0 then [] else encode (.run (k % 62)) := by
  have zero : t.run = 0 ↔ k % 62 = 0 := by rw [← h.run]; exact BitVec.toNat_inj.symm
  rw [State.pendingBytes, h.run]
  simp only [zero]

/-- A pixel that differs from PREV ends the run: the rest of it is flushed in front of the pixel's chunk (R87). -/
theorem Repeated.step_change (h : Repeated s t k) (hm : s.mode = .encode) (hn : t.nextPixel = some p)
    (hne : p ≠ s.prev) : ∃ u, step t = .next u ∧ u.byteOut = s.byteOut ++ runChunks k ++ encode (t.chunkFor p) := by
  refine ⟨t.coded p, ?_, ?_⟩
  · rw [step_encodePixel h.quiet (h.mode.trans hm) h.body]
    exact encodePixel_change h.run_le hn (h.prev ▸ hne)
  · rw [State.coded_byteOut, h.pendingBytes, h.bytes, runChunks]
    simp only [List.append_assoc]

/-- The final pixel of the image ends the run: what is pending is flushed with it (R86). -/
theorem Repeated.step_final (h : Repeated s t k) (hm : s.mode = .encode) (hn : t.nextPixel = some t.prev)
    (final : s.pcnt.toNat + k + 1 = s.npix.toNat) :
    ∃ u, step t = .next u ∧ u.phase = .trailer ∧ u.run = 0 ∧ u.byteOut = s.byteOut ++ runChunks (k + 1) := by
  have hlast : t.pcnt = t.npix - 1 := (h.final_iff (by omega)).2 final
  have complete : t.pcnt + 1 = t.npix := by rw [hlast, BitVec.sub_add_cancel]
  refine ⟨_, (step_encodePixel h.quiet (h.mode.trans hm) h.body).trans (encodePixel_flush h.run_le hn (.inr hlast)),
    if_pos complete, rfl, ?_⟩
  rw [State.countPixels_byteOut, State.setRun_byteOut, State.emit_byteOut, h.bytes, h.run, List.append_assoc,
    runChunks_succ]

/-- Settles O53: the run in front of its last step, then the step that ends it. -/
theorem longRunsAreBounded : Obligations.LongRunsAreBounded := by
  intro s L hq hm hp hr same
  constructor
  · intro px room hpx hne
    obtain ⟨t, hrun, h⟩ := runsTo_repeated hq hm hp hr L room same
    obtain ⟨u, hstep, hbytes⟩ := h.step_change hm (h.nextPixel.trans hpx) hne
    refine ⟨u, t.chunkFor px, runsTo_add hrun (runsTo_one.2 hstep), t.chunkFor_ne_run px, ?_⟩
    rw [hbytes, runChunks, ← List.append_assoc]
  · intro hpos final
    obtain ⟨k, rfl⟩ := Nat.exists_eq_add_one.2 hpos
    obtain ⟨t, hrun, h⟩ := runsTo_repeated hq hm hp hr k (by omega) fun j hj => same j (by omega)
    have hn : t.nextPixel = some t.prev := by rw [h.nextPixel, same k (Nat.lt_succ_self k), h.prev]
    obtain ⟨u, hstep, hphase, hzero, hbytes⟩ := h.step_final hm hn final
    refine ⟨u, runsTo_add hrun (runsTo_one.2 hstep), hphase, hzero, ?_⟩
    rw [hbytes, runChunks, ← List.append_assoc]

/-! ### A pass does not come back to BODY -/

/-- HEADER and BODY are behind this pass, and no command is left. -/
structure PastBody (s : State) : Prop where
  quiet : s.cmdIn = []
  header : s.phase ≠ .header
  body : s.phase ≠ .body

theorem PassEffect.cmdIn (h : PassEffect s t) : t.cmdIn = s.cmdIn := by
  cases h with
  | pixel _ _ _ hu => exact hu.cmdIn
  | _ => rfl

/-- With no command in the schedule a step is an effect of the pass. -/
theorem passEffect_of_quiet (hq : s.cmdIn = []) (h : step s = .next t) : PassEffect s t := by
  rw [step_of_quiet (State.offered_of_quiet hq), State.boundary_of_quiet hq] at h
  exact (passStep_next h).effect

theorem PastBody.after_step (hs : PastBody s) (h : step s = .next t) : PastBody t := by
  have he := passEffect_of_quiet hs.quiet h
  have hq : t.cmdIn = [] := he.cmdIn.trans hs.quiet
  by_cases hsame : t.phase = s.phase
  · exact ⟨hq, hsame ▸ hs.header, hsame ▸ hs.body⟩
  · obtain ⟨hp, -⟩ | ⟨hp, -⟩ | ⟨-, hp⟩ | ⟨-, hp⟩ := he.phase hsame
    · exact absurd hp hs.header
    · exact absurd hp hs.body
    · exact ⟨hq, by rw [hp]; nofun, by rw [hp]; nofun⟩
    · exact ⟨hq, by rw [hp]; nofun, by rw [hp]; nofun⟩

theorem PastBody.after_run {n : Nat} (hs : PastBody s) (h : runsTo n s t) : PastBody t := by
  induction n generalizing s with
  | zero => exact runsTo_zero.1 h ▸ hs
  | succ n ih =>
    obtain ⟨v, hv, ht⟩ := runsTo_succ.1 h
    exact ih (hs.after_step hv) ht

/-! ### A pixel stays in its slot -/

/-- An encode pass in BODY, no command before it, in which the slot of `p` holds `p`. -/
structure Remembers (s : State) (p : Pixel) : Prop where
  inv : s.Inv
  quiet : s.cmdIn = []
  mode : s.mode = .encode
  body : s.phase = .body
  slot : s.slot (pixelHash p) = p

/-- The pixel step at a point of BODY: the error entry, or its pixel coded and counted. -/
theorem step_coded (hi : s.Inv) (hq : s.cmdIn = []) (hm : s.mode = .encode) (hp : s.phase = .body)
    (h : step s = .next t) : t.phase = .error ∨ ∃ px u, PixelCoded s px u ∧ t = u.countPixels 1 := by
  rw [step_encodePixel hq hm hp] at h
  obtain ⟨-, rfl⟩ | hc := encodePixel_coded (hi.runBound (.inl hp)) h
  · exact .inl rfl
  · exact .inr hc

/-- A step in BODY whose pixel leaves `p` in its slot goes past BODY, or counts the pixel and remembers `p`. -/
theorem step_remembers (hi : s.Inv) (hq : s.cmdIn = []) (hm : s.mode = .encode) (hp : s.phase = .body)
    (h : step s = .next t) (hslot : ∀ q u, PixelCoded s q u → u.slot (pixelHash p) = p) :
    PastBody t ∨ Remembers t p ∧ t.pcnt.toNat = s.pcnt.toNat + 1 ∧ t.pixIn = s.pixIn := by
  obtain he | ⟨q, u, hu, rfl⟩ := step_coded hi hq hm hp h
  · exact .inl ⟨(passEffect_of_quiet hq h).cmdIn.trans hq, by rw [he]; nofun, by rw [he]; nofun⟩
  · have hq' : u.cmdIn = [] := hu.cmdIn.trans hq
    have counted := hi.counted hp (.inl rfl) hu.phase hu.pcnt hu.err hu.toCodingFrame.descriptor
    obtain ⟨hb, -⟩ | ⟨ht, -⟩ := counted.phase
    · exact .inr ⟨⟨hu.inv hi hm hp, hq', hu.mode.trans hm, hb, hslot q u hu⟩, counted.pcnt, hu.pixIn⟩
    · exact .inl ⟨hq', by rw [ht]; nofun, by rw [ht]; nofun⟩

/-- A pixel of another bucket leaves the slot of `p` alone, and `p` itself is in it once it is coded again. -/
theorem Remembers.slot_of_coded {q : Pixel} (h : Remembers s p) (hu : PixelCoded s q u)
    (hq : q = p ∨ pixelHash q ≠ pixelHash p) : u.slot (pixelHash p) = p := by
  obtain rfl | hne := hq
  · exact hu.ownSlot (h.inv.ownSlot (.inl h.body) h.mode)
  · exact (hu.cache.slot_of_ne hne.symm).trans h.slot

/-- A run over pixels that are `p` or of other buckets, as long as it stays in BODY. -/
theorem Remembers.after_run {n : Nat} (h : Remembers s p) (hrun : runsTo n s t)
    (others : ∀ k q, k < n → (s.pixIn[s.pcnt.toNat + k]?).map pixelOfWord = some q →
      q = p ∨ pixelHash q ≠ pixelHash p)
    (ht : t.phase = .body) : Remembers t p := by
  induction n generalizing s with
  | zero => exact runsTo_zero.1 hrun ▸ h
  | succ n ih =>
    obtain ⟨v, hv, hrest⟩ := runsTo_succ.1 hrun
    obtain hpast | ⟨hv', hpcnt, hpix⟩ := step_remembers h.inv h.quiet h.mode h.body hv fun q u hu =>
      h.slot_of_coded hu (others 0 q (Nat.succ_pos n) hu.taken)
    · exact absurd ht (hpast.after_run hrest).body
    · refine ih hv' hrest fun k q hk hq => others (k + 1) q (by omega) ?_
      rwa [hpix, hpcnt, Nat.add_assoc, Nat.add_comm 1 k] at hq

/-- A remembered pixel that comes again (R98): an index hit behind the pending run, or one more of the run. -/
theorem Remembers.step_again (h : Remembers s p) (hn : s.nextPixel = some p) :
    ∃ u, step s = .next u ∧
      (p ≠ s.prev → u.byteOut = s.byteOut ++ s.pendingBytes ++ encode (.index (pixelHash p))) ∧
      (p = s.prev → (u.byteOut = s.byteOut ∧ u.run.toNat = s.run.toNat + 1) ∨
        (u.byteOut = s.byteOut ++ encode (.run (s.run.toNat + 1)) ∧ u.run = 0)) := by
  have hr := h.inv.runBound (.inl h.body)
  rw [step_encodePixel h.quiet h.mode h.body]
  by_cases he : p = s.prev
  · subst he
    by_cases hf : s.flushesNow
    · exact ⟨_, encodePixel_flush hr hn hf, fun hne => absurd rfl hne, fun _ => .inr ⟨rfl, rfl⟩⟩
    · exact ⟨_, encodePixel_count hr hn hf, fun hne => absurd rfl hne, fun _ => .inl ⟨rfl, run_succ_toNat hr⟩⟩
  · refine ⟨_, encodePixel_change hr hn he, fun _ => ?_, fun e => absurd e he⟩
    rw [State.coded_byteOut, State.chunkFor_of_hit ((s.lookup_iff p).2 h.slot), List.append_assoc]

/-- Settles O54: the step that codes the pixel leaves it in its slot, and the pixels since do not evict it. -/
theorem seenPixelIsIndexed : Obligations.SeenPixelIsIndexed := by
  intro s t p n hi hq hm hp hn _ hrun others ht htn
  obtain ⟨v, hv, hrest⟩ := runsTo_succ.1 hrun
  have hslot (q : Pixel) (u : State) (hu : PixelCoded s q u) : u.slot (pixelHash p) = p := by
    obtain rfl : p = q := Option.some.inj (hn.symm.trans hu.taken)
    exact hu.ownSlot (hi.ownSlot (.inl hp) hm)
  obtain hpast | ⟨hv', hpcnt, hpix⟩ := step_remembers hi hq hm hp hv hslot
  · exact absurd ht (hpast.after_run hrest).body
  · refine (hv'.after_run hrest (fun k q hk hq => others (k + 1) q (by omega) (by omega) ?_) ht).step_again htn
    rwa [hpix, hpcnt, Nat.add_assoc, Nat.add_comm 1 k] at hq

end Sys2Proof.Machine
end

section
/-! The encode pass from START to its result (`41_chunk_encoder.md` R104), with the bounds on its size (`20_memory.md`
R37). -/

namespace Sys2Proof.Machine

open Sys2Proof

variable {o s t : State} {px : Pixel} {chunks : List Byte}

/-! ### The bytes a pixel costs -/

theorem State.pendingBytes_length (s : State) : s.pendingBytes.length ≤ s.run.toNat := by
  unfold State.pendingBytes
  split
  · exact Nat.zero_le _
  · rename_i h
    exact Nat.pos_of_ne_zero fun h0 => h (BitVec.eq_of_toNat_eq h0)

theorem encodePixel_completes (hr : s.run.toNat ≤ 61) : ∃ t, encodePixel s = .next t := by
  obtain ⟨-, e⟩ | ⟨-, -, e⟩ | ⟨-, -, e⟩ | ⟨_, -, -, e⟩ := encodePixel_cases hr <;> exact ⟨_, e⟩

/-- A pixel step with the pending run taken into account: five bytes for each pixel pay for what it emits and for what it
leaves pending, and 62 pixels are counted for each byte or are pending. -/
theorem encodePixel_amortized (hr : s.run.toNat ≤ 61) (hn : s.nextPixel = some px) (h : encodePixel s = .next t) :
    ∃ bs, t.byteOut = s.byteOut ++ bs ∧ bs.length + t.run.toNat ≤ s.run.toNat + 5 ∧
      s.run.toNat + 1 ≤ 62 * bs.length + t.run.toNat := by
  obtain ⟨hnone, -⟩ | ⟨-, -, e⟩ | ⟨-, -, e⟩ | ⟨q, -, -, e⟩ := encodePixel_cases hr
  · exact nomatch hn.symm.trans hnone
  all_goals obtain rfl := next_inj.1 (e.symm.trans h)
  · refine ⟨encode (.run (s.run.toNat + 1)), rfl, ?_⟩
    rw [encode_length, State.countPixels_run, State.setRun_run]
    exact show 1 + 0 ≤ s.run.toNat + 5 ∧ s.run.toNat + 1 ≤ 62 * 1 + 0 by omega
  · refine ⟨[], (List.append_nil _).symm, ?_⟩
    rw [State.countPixels_run, State.setRun_run, run_succ_toNat hr, List.length_nil]
    omega
  · refine ⟨_, s.coded_byteOut q, ?_⟩
    have pending := s.pendingBytes_length
    have chunk := encode_chunkFor_length s q
    rw [State.coded_run, List.length_append, show (0 : BitVec 6).toNat = 0 from rfl]
    omega

/-! ### The pass between its header step and its result -/

/-- An encode pass that began BODY in `o` stands in `s`, with these chunks emitted since. -/
structure Progress (o s : State) (chunks : List Byte) : Prop extends EncoderFrame o s where
  inv : s.Inv
  quiet : s.cmdIn = []
  mode_encode : s.mode = .encode
  bytes : s.byteOut = o.byteOut ++ chunks
  upper : chunks.length + s.run.toNat ≤ 5 * s.pcnt.toNat
  lower : s.pcnt.toNat ≤ 62 * chunks.length + s.run.toNat

theorem Progress.npix (h : Progress o s chunks) : s.npix = o.npix := State.npix_congr h.width h.height

/-- The result of an encode pass that began BODY in `o`: an error kind for a source of another length than the image,
and the stream otherwise (R104). -/
structure PassEnds (o t : State) : Prop where
  mismatch : o.pixIn.length ≠ o.npix.toNat → t.result = some (.failed .pixelCountMismatch)
  coded : o.pixIn.length = o.npix.toNat →
    ∃ chunks, t.result = some (.encoded (o.byteOut ++ chunks ++ encode .endMark)) ∧
      chunks.length ≤ 5 * o.npix.toNat ∧ o.npix.toNat ≤ 62 * chunks.length

theorem PassEnds.of_mismatch (h : o.pixIn.length ≠ o.npix.toNat)
    (ht : t.result = some (.failed .pixelCountMismatch)) : PassEnds o t :=
  ⟨fun _ => ht, fun e => absurd e h⟩

/-- A pixel step goes on with the pass, one pixel further. -/
theorem Progress.pixel (h : Progress o s chunks) (hp : s.phase = .body) (hn : s.nextPixel = some px) :
    ∃ t chunks', step s = .next t ∧ Progress o t chunks' ∧ t.inPass ∧ t.pcnt.toNat = s.pcnt.toNat + 1 := by
  obtain ⟨t, ht⟩ := encodePixel_completes (h.inv.runBound (.inl hp))
  have hstep : step s = .next t := (step_encodePixel h.quiet h.mode_encode hp).trans ht
  obtain ⟨bs, hbytes, hupper, hlower⟩ := encodePixel_amortized (h.inv.runBound (.inl hp)) hn ht
  obtain ⟨hnone, -⟩ | ⟨u, hu, rfl⟩ := encodePixel_next ht
  · exact nomatch hn.symm.trans hnone
  have counted := h.inv.counted hp (.inl rfl) hu.phase hu.pcnt hu.err hu.descriptor
  have hpass : (u.countPixels 1).inPass := counted.phase.imp And.left And.left
  have upper := h.upper
  have lower := h.lower
  have frame : EncoderFrame s (u.countPixels 1) := { hu.toEncoderFrame with }
  refine ⟨_, chunks ++ bs, hstep, ⟨h.toEncoderFrame.trans frame, everyStepKeepsTheInvariant _ _ h.inv hstep,
    hu.cmdIn.trans h.quiet, hu.mode.trans h.mode_encode, ?_, ?_, ?_⟩, hpass, counted.pcnt⟩
  · rw [hbytes, h.bytes, List.append_assoc]
  · rw [List.length_append, counted.pcnt]
    omega
  · rw [List.length_append, counted.pcnt]
    omega

/-- A source that ends in BODY is shorter than the image (R103). -/
theorem Progress.ended (h : Progress o s chunks) (hp : s.phase = .body) (hn : s.nextPixel = none) :
    ∃ t, step s = .next t ∧ PassEnds o t := by
  have short := s.nextPixel_eq_none_iff.1 hn
  have missing := h.inv.missing hp
  refine ⟨_, (step_encodePixel h.quiet h.mode_encode hp).trans (encodePixel_ended hn), .of_mismatch ?_ rfl⟩
  rw [← h.pixIn, ← h.npix]
  omega

/-- The trailer step closes the stream of a source that has ended, and a source with more pixels is longer than the image
(R102). -/
theorem Progress.trailer (h : Progress o s chunks) (hp : s.phase = .trailer) :
    ∃ t, step s = .next t ∧ PassEnds o t := by
  have complete : s.pcnt.toNat = o.npix.toNat := by rw [h.inv.complete (.inl hp), h.npix]
  obtain ⟨taken, -⟩ := h.inv.pendingRun (.inr hp) h.mode_encode
  have hrun : s.run.toNat = 0 := by rw [h.inv.trailerRun hp]; rfl
  have upper := h.upper
  have lower := h.lower
  have hlen := congrArg List.length h.pixIn
  have hstep : step s = encodeTrailer s :=
    (step_encodeTrailer (State.offered_of_quiet h.quiet) h.mode_encode hp).trans
      (congrArg _ (State.boundary_of_quiet h.quiet))
  by_cases hend : s.pixIn.length ≤ s.pcnt.toNat
  · refine ⟨_, hstep.trans (encodeTrailer_ended hend), fun hne => absurd ?_ hne, fun _ => ⟨chunks, ?_, ?_, ?_⟩⟩
    · omega
    · simp only [State.result, State.setPhase_phase, State.setPhase_mode, State.emit_mode, h.mode_encode,
        State.setPhase_byteOut, State.emit_byteOut, h.bytes]
    · omega
    · omega
  · exact ⟨_, hstep.trans (encodeTrailer_surplus (Nat.not_le.1 hend)), .of_mismatch (by omega) rfl⟩

/-- From BODY or TRAILER the pass reaches its result, by induction on the pixels still missing. -/
theorem Progress.outcome (h : Progress o s chunks) (hpass : s.inPass) : ∃ n t, runsTo n s t ∧ PassEnds o t := by
  induction hm : o.npix.toNat - s.pcnt.toNat using Nat.strong_induction_on generalizing s chunks with
  | _ m ih =>
    obtain hp | hp := hpass
    · cases hn : s.nextPixel with
      | none =>
        obtain ⟨t, hstep, ht⟩ := h.ended hp hn
        exact ⟨1, t, runsTo_one.2 hstep, ht⟩
      | some px =>
        have missing := h.npix ▸ h.inv.missing hp
        obtain ⟨u, chunks', hstep, hu, hpass', hpcnt⟩ := h.pixel hp hn
        obtain ⟨n, t, hrun, ht⟩ := ih (o.npix.toNat - u.pcnt.toNat) (by omega) hu hpass' rfl
        exact ⟨n + 1, t, runsTo_succ.2 ⟨u, hstep, hrun⟩, ht⟩
    · obtain ⟨t, hstep, ht⟩ := h.trailer hp
      exact ⟨1, t, runsTo_one.2 hstep, ht⟩

/-! ### The pass from START -/

/-- The state after START(ENCODE) with this descriptor, no command behind it. -/
def State.encodeStarted (s : State) (d : Descriptor) (pixels : List Pixel) : State :=
  ((s.offerEncode d pixels).boundary.startPass.setMode .encode).setDescriptor d

theorem step_offerEncode (hi : s.phase.active = false) (d : Descriptor) (pixels : List Pixel) :
    step (s.offerEncode d pixels) = .next (s.encodeStarted d pixels) := by
  rw [step_of_offered (c := .startEncode d) rfl]
  exact if_neg (Bool.eq_false_iff.1 hi)

theorem State.encodeStarted_inv (s : State) (d : Descriptor) (pixels : List Pixel) : (s.encodeStarted d pixels).Inv :=
  have hu : (s.encodeStarted d pixels).Unstarted := { (s.offerEncode d pixels).boundary.startPass_unstarted with }
  hu.inv_header rfl rfl rfl

/-- The state in which a started pass with a legal descriptor begins BODY. -/
def State.encodeOpened (s : State) (d : Descriptor) (pixels : List Pixel) : State :=
  ((s.encodeStarted d pixels).emit (encode (.header s.params.magic d.width d.height d.channels d.colorspace))).setPhase
    .body

theorem State.step_encodeStarted (s : State) (d : Descriptor) (pixels : List Pixel) :
    step (s.encodeStarted d pixels) = encodeHeader (s.encodeStarted d pixels) := by
  rw [step_encodeHeader rfl rfl rfl, State.boundary_of_quiet rfl]

theorem step_encodeStarted_legal {d : Descriptor} (hl : d.legal = true) (s : State) (pixels : List Pixel) :
    step (s.encodeStarted d pixels) = .next (s.encodeOpened d pixels) :=
  (s.step_encodeStarted d pixels).trans (encodeHeader_legal (s := s.encodeStarted d pixels) hl)

theorem step_encodeStarted_illegal {d : Descriptor} (hl : d.legal = false) (s : State) (pixels : List Pixel) :
    step (s.encodeStarted d pixels) = .next ((s.encodeStarted d pixels).raise .malformedHeader) :=
  (s.step_encodeStarted d pixels).trans (encodeHeader_illegal (s := s.encodeStarted d pixels) hl)

theorem encodeOpened_progress {d : Descriptor} (hl : d.legal = true) (s : State) (pixels : List Pixel) :
    Progress (s.encodeOpened d pixels) (s.encodeOpened d pixels) [] :=
  have inv := everyStepKeepsTheInvariant _ _ (s.encodeStarted_inv d pixels) (step_encodeStarted_legal hl s pixels)
  ⟨.refl _, inv, rfl, rfl, (List.append_nil _).symm, Nat.zero_le _, Nat.zero_le _⟩

theorem State.encodeOpened_npix (s : State) (d : Descriptor) (pixels : List Pixel) :
    (s.encodeOpened d pixels).npix.toNat = d.pixelCount := State.npix_toNat _

/-- Settles O57: START and the header step, then the pass from BODY to its result. -/
theorem encodePassOutcome : Obligations.EncodePassOutcome := by
  intro s d pixels hi
  have start := step_offerEncode hi d pixels
  cases hl : d.legal with
  | false =>
    have header := step_encodeStarted_illegal hl s pixels
    exact ⟨2, _, runsTo_succ.2 ⟨_, start, runsTo_one.2 header⟩, fun _ => rfl, nofun, nofun⟩
  | true =>
    obtain ⟨n, t, hrun, hmis, hcoded⟩ := (encodeOpened_progress hl s pixels).outcome (.inl rfl)
    have header := step_encodeStarted_legal hl s pixels
    have length : (s.encodeOpened d pixels).pixIn.length = pixels.length := List.length_map _
    rw [length, State.encodeOpened_npix] at hmis hcoded
    exact ⟨n + 2, t, runsTo_succ.2 ⟨_, start, runsTo_succ.2 ⟨_, header, hrun⟩⟩, nofun, fun _ => hmis,
      fun _ => hcoded⟩

end Sys2Proof.Machine
end

section
/-! The packer and the unpacker at every place (`42_byte_packer_unpacker.md` R130): what the decoder answers are exactly
the records whose bytes it is given, and which bytes and refusals the packer answers (R111 to R118, R131). -/

namespace Sys2Proof

open Sys2Proof.Machine

/-! ### Four bytes of a word -/

/-- Taking a word apart gives the bytes it was put together from: port words (`20_memory.md` R31) are such words too. -/
theorem be32_unbe32 (b0 b1 b2 b3 : Byte) : be32 (unbe32 b0 b1 b2 b3) = [b0, b1, b2, b3] :=
  congrArg (fun p : Pixel => [p.a, p.b, p.g, p.r]) (pixelOfWord_wordOfPixel ⟨b3, b2, b1, b0⟩)

theorem map_toNat_be32 (v : Word) : (be32 v).map BitVec.toNat =
    [v.toNat / 2 ^ 24, v.toNat / 2 ^ 16 % 256, v.toNat / 2 ^ 8 % 256, v.toNat % 256] := by
  have top : v.toNat / 2 ^ 24 % 2 ^ 8 = v.toNat / 2 ^ 24 := Nat.mod_eq_of_lt (by omega)
  simp only [be32, List.map_cons, List.map_nil, BitVec.extractLsb'_toNat, Nat.shiftRight_eq_div_pow, top, Nat.pow_zero,
    Nat.div_one]

/-! ### Packing what was unpacked -/

theorem encode_decodeRun {t : Byte} (h : t.toNat / 64 = 3) : encode (decodeRun t) = [t] := by
  rw [decodeRun_eq, encode, show 0xC0 + (t.toNat % 64 + 1 - 1) = t.toNat by omega, BitVec.ofNat_toNat,
    BitVec.setWidth_eq]

/-- The lengths 63 and 64 would be the tag bytes of RGB and RGBA (`30_encoding.md` R59). -/
theorem decodeRun_wellFormed {t : Byte} (h : t.toNat / 64 = 3) (hrgba : t.toNat ≠ 255) (hrgb : t.toNat ≠ 254) :
    (decodeRun t).wellFormed = true := by
  rw [decodeRun_eq, wellFormed_run]
  omega

theorem encode_decodeIndex {t : Byte} (h : t.toNat / 64 = 0) : encode (decodeIndex t) = [t] := by
  have slot : (Fin.ofNat 64 (t.toNat % 64)).val = t.toNat := by simp only [Fin.ofNat]; omega
  rw [decodeIndex_eq, encode, slot, Nat.zero_add, BitVec.ofNat_toNat, BitVec.setWidth_eq]

theorem encode_decodeDiff {t : Byte} (h : t.toNat / 64 = 1) : encode (decodeDiff t) = [t] := by
  have tag : (0x40 + (((t.toNat / 16 % 4 : Nat) : Int) - 2 + 2) * 16 + (((t.toNat / 4 % 4 : Nat) : Int) - 2 + 2) * 4 +
      (((t.toNat % 4 : Nat) : Int) - 2 + 2)) = t.toNat := by omega
  rw [decodeDiff_eq, encode, tag]
  exact congrArg ([·]) (u8_toNat t)

theorem decodeDiff_wellFormed (t : Byte) : (decodeDiff t).wellFormed = true := by
  rw [decodeDiff_eq, wellFormed_diff]
  omega

/-- The record `decodeLuma` reads from its two bytes. -/
def lumaOf (t u : Byte) : Instr :=
  .luma (((t.toNat % 64 : Nat) : Int) - 32) (((u.toNat / 16 : Nat) : Int) - 8) (((u.toNat % 16 : Nat) : Int) - 8)

theorem encode_lumaOf {t : Byte} (h : t.toNat / 64 = 2) (u : Byte) : encode (lumaOf t u) = [t, u] := by
  have tag : 0x80 + (((t.toNat % 64 : Nat) : Int) - 32 + 32) = t.toNat := by omega
  have low : (((u.toNat / 16 : Nat) : Int) - 8 + 8) * 16 + (((u.toNat % 16 : Nat) : Int) - 8 + 8) = u.toNat := by omega
  rw [lumaOf, encode, tag, low]
  exact congrArg₂ ([·, ·]) (u8_toNat t) (u8_toNat u)

theorem lumaOf_wellFormed (t u : Byte) : (lumaOf t u).wellFormed = true := by
  rw [lumaOf, wellFormed_luma]
  omega

/-! ### The chunk decoder on any bytes -/

/-- The record `i` stands at the place `p` in front of `rest` in `bs`. -/
structure RecordAt (p : Place) (i : Instr) (rest bs : List Byte) : Prop where
  wellFormed : i.wellFormed = true
  place : i.place = p
  bytes : encode i ++ rest = bs

theorem RecordAt.of_tag {p : Place} {i : Instr} {t : Byte} {rest : List Byte} (bytes : encode i = [t])
    (wellFormed : i.wellFormed = true) (place : i.place = p) : RecordAt p i rest (t :: rest) :=
  ⟨wellFormed, place, by rw [bytes]; rfl⟩

theorem RecordAt.length {p : Place} {i : Instr} {rest bs : List Byte} (h : RecordAt p i rest bs) :
    bs.length = i.length + rest.length := by
  rw [← h.bytes, List.length_append, encode_length]

/-- How many bytes a chunk asks for by its first byte (`30_encoding.md` R50, R51). -/
def chunkLength (t : Byte) : Nat :=
  if t = 0xFF then 5 else if t = 0xFE then 4 else if t.toNat / 64 = 2 then 2 else 1

theorem decodeRgba_cases (bs : List Byte) : (bs.length < 4 ∧ decodeRgba bs = .error .truncatedChunk) ∨
    ∃ r g b a rest, bs = r :: g :: b :: a :: rest ∧ decodeRgba bs = .ok (.rgba r g b a, rest) :=
  match bs with
  | [] | [_] | [_, _] | [_, _, _] => .inl ⟨by simp, rfl⟩
  | _ :: _ :: _ :: _ :: _ => .inr ⟨_, _, _, _, _, rfl, rfl⟩

theorem decodeRgb_cases (bs : List Byte) : (bs.length < 3 ∧ decodeRgb bs = .error .truncatedChunk) ∨
    ∃ r g b rest, bs = r :: g :: b :: rest ∧ decodeRgb bs = .ok (.rgb r g b, rest) :=
  match bs with
  | [] | [_] | [_, _] => .inl ⟨by simp, rfl⟩
  | _ :: _ :: _ :: _ => .inr ⟨_, _, _, _, rfl, rfl⟩

/-- All the chunk decoder can do: there are fewer bytes than the first one asks for, or the bytes begin with the chunk
it answers, which is as long as the first byte says (R122). -/
theorem decodeChunk_cons_cases (t : Byte) (bs : List Byte) :
    (bs.length + 1 < chunkLength t ∧ decodeChunk (t :: bs) = .error .truncatedChunk) ∨
    ∃ i rest, decodeChunk (t :: bs) = .ok (i, rest) ∧ i.length = chunkLength t ∧ RecordAt .chunk i rest (t :: bs) := by
  have isRgba : t = 0xFF ↔ t.toNat = 255 := BitVec.toNat_eq
  have isRgb : t = 0xFE ↔ t.toNat = 254 := BitVec.toNat_eq
  simp only [decodeChunk_cons_toNat, chunkLength, isRgba, isRgb]
  by_cases rgba : t.toNat = 255
  · rw [if_pos rgba, if_pos rgba]
    obtain ⟨short, e⟩ | ⟨r, g, b, a, rest, rfl, e⟩ := decodeRgba_cases bs
    · exact .inl ⟨by omega, e⟩
    · exact .inr ⟨_, _, e, rfl, rfl, rfl, by rw [isRgba.2 rgba]; rfl⟩
  rw [if_neg rgba, if_neg rgba]
  by_cases rgb : t.toNat = 254
  · rw [if_pos rgb, if_pos rgb]
    obtain ⟨short, e⟩ | ⟨r, g, b, rest, rfl, e⟩ := decodeRgb_cases bs
    · exact .inl ⟨by omega, e⟩
    · exact .inr ⟨_, _, e, rfl, rfl, rfl, by rw [isRgb.2 rgb]; rfl⟩
  rw [if_neg rgb, if_neg rgb]
  obtain tag | tag | tag | tag : t.toNat / 64 = 3 ∨ t.toNat / 64 = 0 ∨ t.toNat / 64 = 1 ∨ t.toNat / 64 = 2 := by omega
  all_goals simp only [tag, Nat.reduceEqDiff, ↓reduceIte]
  · exact .inr ⟨_, _, rfl, rfl, .of_tag (encode_decodeRun tag) (decodeRun_wellFormed tag rgba rgb) rfl⟩
  · exact .inr ⟨_, _, rfl, rfl, .of_tag (encode_decodeIndex tag) rfl rfl⟩
  · exact .inr ⟨_, _, rfl, rfl, .of_tag (encode_decodeDiff tag) (decodeDiff_wellFormed t) rfl⟩
  · cases bs with
    | nil => exact .inl ⟨by simp, rfl⟩
    | cons u rest =>
      exact .inr ⟨lumaOf t u, rest, decodeLuma_cons t u rest, rfl, lumaOf_wellFormed t u, rfl,
        by rw [encode_lumaOf tag]; rfl⟩

/-! ### The decoder at every place -/

theorem decodeHeader_encode (magic w h : Word) (c s : Byte) (rest : List Byte) :
    decodeHeader (encode (.header magic w h c s) ++ rest) = .ok (.header magic w h c s, rest) := by
  simp only [encode, be32, List.cons_append, List.nil_append, decodeHeader, unbe32_be32]

theorem decodeEnd_encode (rest : List Byte) : decodeEnd (encode .endMark ++ rest) = .ok (.endMark, rest) := rfl

theorem decodeHeader_of_short {bs : List Byte} (h : bs.length < 14) : decodeHeader bs = .error .shortHeader := by
  unfold decodeHeader
  split
  · simp only [List.length_cons] at h
    omega
  · rfl

theorem decodeHeader_recordAt {bs rest : List Byte} {i : Instr} (h : decodeHeader bs = .ok (i, rest)) :
    RecordAt .header i rest bs := by
  unfold decodeHeader at h
  split at h <;> cases h
  exact ⟨rfl, rfl, by simp only [encode, be32_unbe32, List.cons_append, List.nil_append]⟩

theorem decodeChunk_recordAt {bs rest : List Byte} {i : Instr} (h : decodeChunk bs = .ok (i, rest)) :
    RecordAt .chunk i rest bs := by
  cases bs with
  | nil => cases h
  | cons t bs =>
    obtain ⟨-, e⟩ | ⟨j, rest', e, -, record⟩ := decodeChunk_cons_cases t bs <;> cases e.symm.trans h
    exact record

theorem decodeEnd_recordAt {bs rest : List Byte} {i : Instr} (h : decodeEnd bs = .ok (i, rest)) :
    RecordAt .trailer i rest bs := by
  unfold decodeEnd at h
  split at h <;> cases h
  rename_i marker
  exact ⟨rfl, rfl, by rw [encode, ← marker, List.take_append_drop]⟩

/-- Settles O1: a chunk by its kind, a header by its three words, the end marker by evaluation. -/
theorem decodeOfEncodedRecord : Obligations.DecodeOfEncodedRecord := by
  intro i rest hw
  cases i with
  | header magic w h c s => exact decodeHeader_encode magic w h c s rest
  | endMark => exact decodeEnd_encode rest
  | _ => exact decodeChunk_encode hw rfl rest

/-- Settles O2: at each place the bytes answered for begin with the record answered. -/
theorem encodeOfDecodedBytes : Obligations.EncodeOfDecodedBytes := by
  intro p bs i rest h
  have record : RecordAt p i rest bs := by
    cases p with
    | header => exact decodeHeader_recordAt h
    | chunk => exact decodeChunk_recordAt h
    | trailer => exact decodeEnd_recordAt h
  exact ⟨record.wellFormed, record.place, record.bytes⟩

/-! ### The packer -/

/-- Settles O4: the packer forms a byte from a number below 256, or takes a word apart. -/
theorem packedBytesOfEveryRecord : Obligations.PackedBytesOfEveryRecord := by
  refine ⟨fun magic w h c s => ?_, fun len h1 h2 => ?_, fun j => ?_, fun dr dg db _ _ _ _ _ _ => ?_,
    fun dg drg dbg _ _ _ _ _ _ => ?_, fun _ _ _ => rfl, fun _ _ _ _ => rfl, rfl⟩
  · rw [encode, List.map_append, List.map_append, List.map_append, List.map_append, map_toNat_be32, map_toNat_be32,
      map_toNat_be32]
    rfl
  · rw [encode, List.map_singleton, toNat_ofNat_byte (by omega)]
  · rw [encode, List.map_singleton, toNat_ofNat_byte (by omega), Nat.zero_add]
  · rw [encode, List.map_singleton, toNat_ofInt_byte (by omega) (by omega)]
  · rw [encode, List.map_cons, List.map_singleton, toNat_ofInt_byte (by omega) (by omega),
      toNat_ofInt_byte (by omega) (by omega)]

theorem pack_eq_none_iff (i : Instr) : pack i = none ↔ ¬ i.wellFormed = true := by
  simp [pack]

/-- Settles O5: the packer refuses what is no record, and the operand ranges say which terms those are. -/
theorem packerRefusesOutOfRange : Obligations.PackerRefusesOutOfRange :=
  ⟨fun len => (pack_eq_none_iff _).trans (not_congr (wellFormed_run len)),
    fun dr dg db => (pack_eq_none_iff _).trans (not_congr (wellFormed_diff dr dg db)),
    fun dg drg dbg => (pack_eq_none_iff _).trans (not_congr (wellFormed_luma dg drg dbg)),
    fun _ => pack_of_wellFormed⟩

end Sys2Proof
end

section
/-! The steps of a decode pass whose bytes are cut short or are no record (`42_byte_packer_unpacker.md` R121, R122, R129). -/

namespace Sys2Proof.Machine

open Sys2Proof

variable {s : State} {p : Place} {i : Instr} {rest : List Byte} {r : Reject}

/-! ### The step of a decode pass -/

/-- Where the record of a place is read: HEADER at offset 0, chunks and END at BPOS. -/
def State.readAt (s : State) (p : Place) : List Byte := s.unread (if p = .header then 0 else s.bpos)

theorem fetch_of_decodes (hp : s.phase = placePhase p) (h : decodeAt p (s.readAt p) = .ok (i, rest)) :
    fetch s = .ok i := by
  unfold State.readAt at h
  cases p <;> simp_all [fetch, fetchPlace]

theorem fetch_of_rejects (hp : s.phase = placePhase p) (h : decodeAt p (s.readAt p) = .error r) :
    fetch s = .error (rejectKind s.params r) := by
  unfold State.readAt at h
  cases p <;> simp_all [fetch, fetchPlace]

theorem placePhase_active (p : Place) : (placePhase p).active = true := by cases p <;> rfl

/-- With no command an active decode pass takes the decoder's step. -/
theorem step_decodeStep (ho : s.offered = none) (hm : s.mode = .decode) (ha : s.phase.active = true) :
    step s = decodeStep s.boundary := by
  rw [step_of_quiet ho, passStep, State.boundary_phase, if_pos ha, State.boundary_mode, hm]

/-- A step of a decode pass whose unread bytes are a record of its place is the meaning of that record. -/
theorem step_of_decodes (ho : s.offered = none) (hm : s.mode = .decode) (hp : s.phase = placePhase p)
    (h : decodeAt p (s.readAt p) = .ok (i, rest)) : step s = exec i s.boundary := by
  rw [step_decodeStep ho hm (hp ▸ placePhase_active p), decodeStep, fetch_of_decodes (s := s.boundary) hp h]

/-- A step of a decode pass whose unread bytes are no record of its place raises, and changes nothing else (R165). -/
theorem step_of_rejects (ho : s.offered = none) (hm : s.mode = .decode) (hp : s.phase = placePhase p)
    (h : decodeAt p (s.readAt p) = .error r) : step s = .next (s.boundary.raise (rejectKind s.params r)) := by
  rw [step_decodeStep ho hm (hp ▸ placePhase_active p), decodeStep, fetch_of_rejects (s := s.boundary) hp h]
  rfl

/-! ### Chunks -/

theorem State.unread_eq_nil (h : s.len ≤ s.bpos) : s.unread s.bpos = [] := List.drop_eq_nil_of_le h

theorem State.unread_eq_cons {b : Byte} (h : s.byteIn[s.bpos]? = some b) :
    s.unread s.bpos = b :: s.unread (s.bpos + 1) ∧ s.len = s.bpos + 1 + (s.unread (s.bpos + 1)).length := by
  obtain ⟨hlt, hget⟩ := List.getElem?_eq_some_iff.1 h
  simp only [State.unread, State.len, List.drop_eq_getElem_cons hlt, hget, List.length_drop, true_and]
  omega

/-- Settles O8: by the byte at BPOS, the chunk decoder rejects what is too short and reads a chunk of that length
otherwise. -/
theorem cutShortChunkRaises : Obligations.CutShortChunkRaises := by
  intro s ho hm hp
  refine ⟨fun hend => ?_, fun t n ht hn => ?_⟩
  · exact step_of_rejects (p := .chunk) ho hm hp (congrArg decodeChunk (s.unread_eq_nil hend))
  · replace hn : n = chunkLength t := hn
    obtain ⟨bytes, length⟩ := s.unread_eq_cons ht
    obtain ⟨short, e⟩ | ⟨i, rest, e, hi, record⟩ := decodeChunk_cons_cases t (s.unread (s.bpos + 1)) <;>
      rw [← bytes] at e
    · exact ⟨fun _ => step_of_rejects (p := .chunk) ho hm hp e, fun h => by omega⟩
    · have whole := record.length
      rw [List.length_cons] at whole
      exact ⟨fun h => by omega, fun _ => ⟨i, rest, e, hi.trans hn.symm, step_of_decodes (p := .chunk) ho hm hp e⟩⟩

/-! ### The framing records -/

/-- Bytes after the end marker under STRICT_EOS (`42_byte_packer_unpacker.md` R129). -/
theorem exec_endMark_followed (hm : s.mode = .decode) (hp : s.phase = .trailer) (hs : s.params.strictEos = true)
    (hl : s.bpos + 8 < s.len) : exec .endMark s = .next (s.raise .missingEndMarker) := by
  obtain ⟨t, ht⟩ := exec_completes (i := .endMark) rfl hm hp
  obtain ⟨-, -, -, done⟩ := exec_next ht
  rw [ht, next_inj]
  cases done with
  | endOk he => exact absurd ⟨hs, by omega⟩ he
  | endBad _ => rfl

/-- A header that fails one of the five tests (R121). -/
theorem exec_header_refused {magic w h : Word} {c cs : Byte} (hm : s.mode = .decode) (hp : s.phase = .header)
    (hb : ¬(magic = s.params.magic ∧ legalDescriptor w h c cs = true)) :
    exec (.header magic w h c cs) s = .next (s.raise .malformedHeader) := by
  obtain ⟨t, ht⟩ := exec_completes (i := .header magic w h c cs) rfl hm hp
  obtain ⟨-, -, -, done⟩ := exec_next ht
  rw [ht, next_inj]
  cases done with
  | header _ _ _ _ _ hmagic hlegal => exact absurd ⟨hmagic, hlegal⟩ hb
  | headerBad _ _ _ _ _ _ => rfl

/-- Settles O9: what is too short for a header and what is not the marker is rejected, and what follows the marker makes
its meaning raise. -/
theorem cutShortFrameRaises : Obligations.CutShortFrameRaises := by
  intro s ho hm
  refine ⟨fun hp hlen => ?_, fun hp hne => ?_, fun hp hs hl => ?_⟩
  · exact step_of_rejects (p := .header) ho hm hp (decodeHeader_of_short hlen)
  · exact step_of_rejects (p := .trailer) ho hm hp (if_neg hne)
  · by_cases marker : (s.unread s.bpos).take 8 = endMarker
    · exact (step_of_decodes (p := .trailer) ho hm hp (if_pos marker)).trans
        (exec_endMark_followed (s := s.boundary) hm hp hs hl)
    · exact step_of_rejects (p := .trailer) ho hm hp (if_neg marker)

/-- Settles O18: each of the five ways contradicts the test of its field. -/
theorem illegalHeaderRaises : Obligations.IllegalHeaderRaises := by
  intro s magic w h c cs hm hp illegal
  refine exec_header_refused hm hp fun ⟨hmagic, hlegal⟩ => ?_
  obtain ⟨hw, hh, hc, hcs⟩ := (legalDescriptor_iff w h c cs).1 hlegal
  obtain bad | bad | bad | bad | bad := illegal
  · exact bad hmagic
  · exact hw bad
  · exact hh bad
  · exact not_or.2 bad hc
  · exact not_or.2 bad hcs

end Sys2Proof.Machine
end

section
/-! What each record does in the mode and phase that enable it (`43_chunk_decoder.md` R142 to R148, R152, R153), and
where a meaning stops. -/

namespace Sys2Proof.Machine

open Sys2Proof

variable {s u : State} {i : Instr}

/-! ### Where a meaning stops -/

/-- The phase of a record's place, by the three places. -/
theorem eq_placePhase_iff (i : Instr) (p : Phase) : p = placePhase i.place ↔
    (i.place = .header ∧ p = .header) ∨ (i.place = .chunk ∧ p = .body) ∨ (i.place = .trailer ∧ p = .trailer) := by
  cases i.place <;> simp

/-- Settles O20: a refusal, a fault and an answer are told apart by the record's operands, its mode and its phase. -/
theorem meaningStopsOnlyWhereNotEnabled : Obligations.MeaningStopsOnlyWhereNotEnabled := by
  intro i s
  simp only [← eq_placePhase_iff]
  exact ⟨fun hw => (exec_refused_iff i s _).2 ⟨hw, rfl⟩, fun hw hne => (exec_fault_iff i s _).2 ⟨hw, hne⟩,
    exec_completes⟩

/-- A record runs in its mode and phase, and it does what every way of `ExecDone` that is left for it does. -/
theorem exec_of_done (hw : i.wellFormed = true) (hm : s.mode = .decode) (hp : s.phase = placePhase i.place)
    (done : ∀ t, ExecDone s i t → t = u) : exec i s = .next u := by
  obtain ⟨t, ht⟩ := exec_completes hw hm hp
  obtain ⟨-, -, -, hd⟩ := exec_next ht
  rw [ht, done t hd]

/-- Settles O7: the step is the meaning on the boundary state. -/
theorem stepRunsTheDecodedRecord : Obligations.StepRunsTheDecodedRecord :=
  fun _ _ _ _ ho hm hp h => step_of_decodes ho hm hp h

/-! ### What a chunk leaves -/

theorem ChunkFrame.of_chunkDone (s : State) (cache : Vector Pixel 64) (px : Pixel) (n len : Nat) :
    ChunkFrame s (s.chunkDone cache px n len) :=
  ⟨rfl, rfl, rfl, rfl, rfl, rfl, rfl, rfl, rfl, rfl, rfl, rfl⟩

theorem YieldsPixel.of_chunkDone (hp : s.phase = .body) (cache : Vector Pixel 64) (px : Pixel) (len : Nat) :
    YieldsPixel s (s.chunkDone cache px 1 len) px len :=
  ⟨rfl, rfl, rfl, rfl, hp ▸ rfl, rfl, .of_chunkDone s cache px 1 len⟩

theorem StoresPixel.of_storeAndYield (s : State) (px : Pixel) (len : Nat) :
    StoresPixel s (s.storeAndYield px len) px := .of_cache rfl

theorem YieldsPixel.of_storeAndYield (hp : s.phase = .body) (px : Pixel) (len : Nat) :
    YieldsPixel s (s.storeAndYield px len) px len := .of_chunkDone hp _ px len

/-! ### RUN and INDEX -/

/-- Settles O10: a RUN with room is `chunkDone` with PREV and the cache as they are, and the count does not wrap. -/
theorem runRepeatsThePreviousPixel : Obligations.RunRepeatsThePreviousPixel := by
  intro s len hm hp h1 h2 room
  have count := State.pcnt_add_toNat room
  have complete : s.pcnt + BitVec.ofNat 64 len = s.npix ↔ s.pcnt.toNat + len = s.npix.toNat := by
    rw [← BitVec.toNat_inj, count]
  have phase : (s.chunkDone s.cache s.prev len 1).phase =
      if s.pcnt.toNat + len = s.npix.toNat then .trailer else .body := by
    rw [← hp, ← if_congr complete rfl rfl]
    rfl
  exact ⟨_, exec_run_of_room hm hp h1 h2 room, rfl, count, rfl, rfl, rfl, phase, rfl, .of_chunkDone _ _ _ _ _⟩

/-- Settles O11: without room the only way left for a RUN is the error entry. -/
theorem runPastTheImageRaises : Obligations.RunPastTheImageRaises := by
  intro s len hm hp h1 h2 past
  refine exec_of_done ((wellFormed_run len).2 ⟨h1, h2⟩) hm hp fun t done => ?_
  cases done with
  | runPut _ _ _ room => omega
  | runPast _ _ => rfl

/-- Settles O12: INDEX is `chunkDone` with the pixel of its slot and the cache as it is. -/
theorem indexYieldsItsSlot : Obligations.IndexYieldsItsSlot := by
  intro s j hm hp
  have answer : exec (.index j) s = .next (s.chunkDone s.cache (s.slot j) 1 1) :=
    exec_of_done rfl hm hp fun _ done => by cases done; rfl
  exact ⟨_, answer, .of_chunkDone hp _ _ _, rfl⟩

/-! ### The storing chunks -/

/-- A channel moved by a delta, as a number. -/
theorem addDelta_toNat (c : Byte) (d : Int) : ((addDelta c d).toNat : Int) = (c.toNat + d) % 256 := by
  rw [addDelta, u8, BitVec.toNat_ofInt]
  exact Int.toNat_of_nonneg (Int.emod_nonneg _ (by decide))

/-- Settles O13: DIFF stores and yields the pixel its deltas lead to, channel by channel modulo 256. -/
theorem diffAddsItsDeltas : Obligations.DiffAddsItsDeltas := by
  intro s dr dg db hm hp hr hr' hg hg' hb hb'
  have answer : exec (.diff dr dg db) s = .next (s.storeAndYield (diffPixel dr dg db s.prev) 1) :=
    exec_of_done ((wellFormed_diff dr dg db).2 ⟨⟨hr, hr'⟩, ⟨hg, hg'⟩, ⟨hb, hb'⟩⟩) hm hp
      fun _ done => by cases done; rfl
  exact ⟨_, diffPixel dr dg db s.prev, answer, addDelta_toNat _ _, addDelta_toNat _ _, addDelta_toNat _ _, rfl,
    .of_storeAndYield _ _ _, .of_storeAndYield hp _ _⟩

/-- Settles O14: LUMA does so with the green delta added to the two relative ones. -/
theorem lumaAddsItsDeltas : Obligations.LumaAddsItsDeltas := by
  intro s dg drg dbg hm hp hg hg' hr hr' hb hb'
  have answer : exec (.luma dg drg dbg) s = .next (s.storeAndYield (lumaPixel dg drg dbg s.prev) 2) :=
    exec_of_done ((wellFormed_luma dg drg dbg).2 ⟨⟨hg, hg'⟩, ⟨hr, hr'⟩, ⟨hb, hb'⟩⟩) hm hp
      fun _ done => by cases done; rfl
  refine ⟨_, lumaPixel dg drg dbg s.prev, answer, ?_, addDelta_toNat _ _, ?_, rfl, .of_storeAndYield _ _ _,
    .of_storeAndYield hp _ _⟩
  · rw [Int.add_assoc]
    exact addDelta_toNat _ _
  · rw [Int.add_assoc]
    exact addDelta_toNat _ _

/-- Settles O15: RGB stores and yields its three channels with the alpha of PREV. -/
theorem rgbKeepsAlpha : Obligations.RgbKeepsAlpha := by
  intro s r g b hm hp
  have answer : exec (.rgb r g b) s = .next (s.storeAndYield ⟨r, g, b, s.prev.a⟩ 4) :=
    exec_of_done rfl hm hp fun _ done => by cases done; rfl
  exact ⟨_, answer, .of_storeAndYield _ _ _, .of_storeAndYield hp _ _⟩

/-- Settles O16: RGBA stores and yields its four channels. -/
theorem rgbaReplacesThePixel : Obligations.RgbaReplacesThePixel := by
  intro s r g b a hm hp
  have answer : exec (.rgba r g b a) s = .next (s.storeAndYield ⟨r, g, b, a⟩ 5) :=
    exec_of_done rfl hm hp fun _ done => by cases done; rfl
  exact ⟨_, answer, .of_storeAndYield _ _ _, .of_storeAndYield hp _ _⟩

/-! ### HEADER and END -/

theorem exec_header_legal {d : Descriptor} (hm : s.mode = .decode) (hp : s.phase = .header) (hl : d.legal = true) :
    exec (.header s.params.magic d.width d.height d.channels d.colorspace) s =
      .next (((s.setDescriptor d).setPos 14).setPhase .body) := by
  refine exec_of_done rfl hm hp fun t done => ?_
  cases done with
  | header _ _ _ _ _ _ _ => rfl
  | headerBad _ _ _ _ _ hb => exact absurd ⟨rfl, hl⟩ hb

/-- Settles O17: the five tests hold, so the header is not refused. -/
theorem headerWritesTheDescriptor : Obligations.HeaderWritesTheDescriptor := by
  intro s w h c cs hm hp hw hh hc hcs
  exact exec_header_legal (d := ⟨w, h, c, cs⟩) hm hp ((legalDescriptor_iff w h c cs).2 ⟨hw, hh, hc, hcs⟩)

theorem exec_endMark_finishes (hm : s.mode = .decode) (hp : s.phase = .trailer)
    (he : s.params.strictEos = false ∨ s.len ≤ s.bpos + 8) :
    exec .endMark s = .next ((s.advance 8).setPhase .done) := by
  refine exec_of_done rfl hm hp fun t done => ?_
  cases done with
  | endOk _ => rfl
  | endBad hbad =>
    obtain ⟨strict, followed⟩ := hbad
    obtain lax | last := he
    · exact nomatch strict.symm.trans lax
    · omega

/-- Settles O19: nothing the end marker is rejected for is there. -/
theorem endFinishesThePass : Obligations.EndFinishesThePass := fun _ hm hp he => exec_endMark_finishes hm hp he

end Sys2Proof.Machine
end

section
/-! The frames of the records (`43_chunk_decoder.md` R141, R152, R153), by the ways a meaning goes on. -/

namespace Sys2Proof.Machine

open Sys2Proof

variable {s t : State}

theorem ChunkFrame.of_raise (s : State) (k : ErrKind) : ChunkFrame s (s.raise k) :=
  ⟨rfl, rfl, rfl, rfl, rfl, rfl, rfl, rfl, rfl, rfl, rfl, rfl⟩

/-- A chunk that is done leaves the pass in BODY or in TRAILER. -/
theorem State.chunkDone_phase_ne_error (hp : s.phase = .body) (cache : Vector Pixel 64) (px : Pixel) (n len : Nat) :
    (s.chunkDone cache px n len).phase ≠ .error := by
  obtain ⟨h, -⟩ | ⟨h, -⟩ := State.countPixels_phase_cases
    (u := (State.putPixels { s with cache := cache } n px).setPrev px) hp n
  · exact h.trans_ne nofun
  · exact h.trans_ne nofun

/-- Settles O21: each of the four kinds stores and yields one pixel, which is the new PREV. -/
theorem storingChunkFrame : Obligations.StoringChunkFrame := by
  intro i s t kind h
  obtain ⟨-, -, -, done⟩ := exec_next h
  have stored : ∃ px len, t = s.storeAndYield px len := by
    obtain ⟨dr, dg, db, rfl⟩ | ⟨dg, drg, dbg, rfl⟩ | ⟨r, g, b, rfl⟩ | ⟨r, g, b, a, rfl⟩ := kind <;>
      cases done <;> exact ⟨_, _, rfl⟩
  obtain ⟨px, len, rfl⟩ := stored
  obtain ⟨-, others⟩ := StoresPixel.of_storeAndYield s px len
  exact ⟨.of_chunkDone _ _ _ _ _, rfl, others, rfl⟩

/-- Settles O22: a RUN repeats PREV or raises, INDEX yields its slot; neither writes the cache. -/
theorem repeatChunkFrame : Obligations.RepeatChunkFrame := by
  intro s t
  constructor
  · intro len h
    obtain ⟨-, -, hp, done⟩ := exec_next h
    cases done with
    | runPut _ _ _ _ =>
      exact ⟨.of_chunkDone s s.cache s.prev len 1, rfl, rfl,
        fun he => absurd he (State.chunkDone_phase_ne_error hp s.cache s.prev len 1), fun _ => rfl⟩
    | runPast _ _ =>
      exact ⟨.of_raise _ _, rfl, rfl, fun _ => ⟨rfl, rfl, rfl⟩, fun hne => absurd rfl hne⟩
  · intro j h
    obtain ⟨-, -, -, done⟩ := exec_next h
    cases done
    exact ⟨.of_chunkDone s s.cache (s.slot j) 1 1, rfl, rfl, rfl⟩

/-- Settles O23: HEADER and END raise, or write the descriptor, BPOS and PHASE, or BPOS and PHASE. -/
theorem framingRecordFrame : Obligations.FramingRecordFrame := by
  intro i s t kind h
  obtain ⟨-, -, -, done⟩ := exec_next h
  obtain ⟨m, w, hh, c, cs, rfl⟩ | rfl := kind
  · cases done with
    | header _ _ _ _ _ _ _ => simp
    | headerBad _ _ _ _ _ _ => simp
  · cases done with
    | endOk _ => simp
    | endBad _ => simp

end Sys2Proof.Machine
end

section
/-! The decode pass from START to its result (`43_chunk_decoder.md` R154): an image of the declared number of pixels, or
one error kind. -/

namespace Sys2Proof.Machine

open Sys2Proof

variable {s t : State} {i : Instr} {bytes : List Byte} {d : Descriptor}

/-! ### The steps of a pass without commands -/

/-- The header's 14 bytes are there, or the unpacker says that they are not. -/
theorem decodeHeader_cases (bs : List Byte) : decodeHeader bs = .error .shortHeader ∨
    ∃ magic w h c cs rest, decodeHeader bs = .ok (.header magic w h c cs, rest) := by
  unfold decodeHeader
  split
  · exact .inr ⟨_, _, _, _, _, _, rfl⟩
  · exact .inl rfl

/-- The only reason for which bytes are no chunk (`42_byte_packer_unpacker.md` R122). -/
theorem decodeChunk_cases (bs : List Byte) : decodeChunk bs = .error .truncatedChunk ∨
    ∃ i rest, decodeChunk bs = .ok (i, rest) ∧ RecordAt .chunk i rest bs := by
  cases bs with
  | nil => exact .inl rfl
  | cons t bs =>
    obtain ⟨-, e⟩ | ⟨i, rest, e, -, record⟩ := decodeChunk_cons_cases t bs
    · exact .inl e
    · exact .inr ⟨i, rest, e, record⟩

/-- With no command in the schedule a step is the meaning of the record that stands next. -/
theorem step_of_quiet_decodes {p : Place} {rest : List Byte} (hq : s.cmdIn = []) (hm : s.mode = .decode)
    (hp : s.phase = placePhase p) (h : decodeAt p (s.readAt p) = .ok (i, rest)) : step s = exec i s := by
  rw [step_of_decodes (State.offered_of_quiet hq) hm hp h, State.boundary_of_quiet hq]

theorem step_of_quiet_rejects {p : Place} {r : Reject} (hq : s.cmdIn = []) (hm : s.mode = .decode)
    (hp : s.phase = placePhase p) (h : decodeAt p (s.readAt p) = .error r) :
    step s = .next (s.raise (rejectKind s.params r)) := by
  rw [step_of_rejects (State.offered_of_quiet hq) hm hp h, State.boundary_of_quiet hq]

/-- A chunk past the declared number of pixels raises; every other counts at least one of the pixels missing. -/
theorem ExecDone.of_chunk (h : ExecDone s i t) (hc : i.place = .chunk) : t = s.raise .pixelCountMismatch ∨
    ∃ cache px n len, 1 ≤ n ∧ s.Countable n ∧ t = s.chunkDone cache px n len := by
  have stored (px : Pixel) (len : Nat) : ∃ cache px' n len', 1 ≤ n ∧ s.Countable n ∧
      s.storeAndYield px len = s.chunkDone cache px' n len' := ⟨_, px, 1, len, le_rfl, .inl rfl, rfl⟩
  cases h with
  | runPast _ _ => exact .inl rfl
  | runPut len h1 h2 room => exact .inr ⟨s.cache, s.prev, len, 1, h1, .inr ⟨h2, room⟩, rfl⟩
  | index j => exact .inr ⟨s.cache, s.slot j, 1, 1, le_rfl, .inl rfl, rfl⟩
  | diff _ _ _ => exact .inr (stored _ _)
  | luma _ _ _ => exact .inr (stored _ _)
  | rgb _ _ _ => exact .inr (stored _ _)
  | rgba _ _ _ _ => exact .inr (stored _ _)
  | header _ _ _ _ _ _ _ => cases hc
  | headerBad _ _ _ _ _ _ => cases hc
  | endOk _ => cases hc
  | endBad _ => cases hc

/-- All the outcomes of a chunk step. -/
theorem step_chunk (hq : s.cmdIn = []) (hm : s.mode = .decode) (hp : s.phase = .body) :
    step s = .next (s.raise .truncatedStream) ∨ step s = .next (s.raise .pixelCountMismatch) ∨
      ∃ cache px n len, 1 ≤ n ∧ s.Countable n ∧ step s = .next (s.chunkDone cache px n len) := by
  obtain cut | ⟨i, rest, decodes, record⟩ := decodeChunk_cases (s.unread s.bpos)
  · exact .inl (step_of_quiet_rejects (p := .chunk) hq hm hp cut)
  · have runs := step_of_quiet_decodes (p := .chunk) hq hm hp decodes
    have phase : s.phase = placePhase i.place := by rw [record.place, hp]; rfl
    obtain ⟨t, answer⟩ := exec_completes record.wellFormed hm phase
    obtain ⟨-, -, -, done⟩ := exec_next answer
    obtain rfl | ⟨cache, px, n, len, h1, hn, rfl⟩ := done.of_chunk record.place
    · exact .inr (.inl (runs.trans answer))
    · exact .inr (.inr ⟨cache, px, n, len, h1, hn, runs.trans answer⟩)

/-- All the outcomes of a trailer step. -/
theorem step_decodeTrailer (hq : s.cmdIn = []) (hm : s.mode = .decode) (hp : s.phase = .trailer) :
    step s = .next (s.raise .missingEndMarker) ∨ step s = .next ((s.advance 8).setPhase .done) := by
  by_cases marker : (s.unread s.bpos).take 8 = endMarker
  · have runs := step_of_quiet_decodes (p := .trailer) hq hm hp (if_pos marker)
    obtain ⟨t, answer⟩ := exec_completes (i := .endMark) rfl hm hp
    obtain ⟨-, -, -, done⟩ := exec_next answer
    cases done with
    | endOk _ => exact .inr (runs.trans answer)
    | endBad _ => exact .inl (runs.trans answer)
  · exact .inl (step_of_quiet_rejects (p := .trailer) hq hm hp (if_neg marker))

/-! ### From BODY to the result -/

/-- A decode pass with the descriptor `d` stands between its header step and its end. -/
structure Decoding (d : Descriptor) (s : State) : Prop where
  inv : s.Inv
  quiet : s.cmdIn = []
  mode : s.mode = .decode
  pass : s.inPass
  descriptor : s.descriptor = d

/-- The ways a decode pass with a legal header ends: an image of exactly the declared number of pixels, or one kind. -/
def DecodeEnds (d : Descriptor) (t : State) : Prop :=
  (∃ pixels, t.result = some (.decoded d pixels) ∧ pixels.length = d.pixelCount) ∨
    t.result = some (.failed .truncatedStream) ∨ t.result = some (.failed .pixelCountMismatch) ∨
    t.result = some (.failed .missingEndMarker)

theorem State.npix_eq_pixelCount (s : State) : s.npix.toNat = s.descriptor.pixelCount := s.npix_toNat

/-- A chunk step ends the pass with an error kind, or goes on with at least one pixel more. -/
theorem Decoding.chunk (h : Decoding d s) (hp : s.phase = .body) :
    ∃ t, step s = .next t ∧ (DecodeEnds d t ∨ Decoding d t ∧ s.pcnt.toNat < t.pcnt.toNat) := by
  obtain hstep | hstep | ⟨cache, px, n, len, h1, hn, hstep⟩ := step_chunk h.quiet h.mode hp
  · exact ⟨_, hstep, .inl (.inr (.inl rfl))⟩
  · exact ⟨_, hstep, .inl (.inr (.inr (.inl rfl)))⟩
  · have counted := h.inv.counted (u := (State.putPixels { s with cache := cache } n px).setPrev px) hp hn rfl rfl rfl
      rfl
    have count : (s.chunkDone cache px n len).pcnt.toNat = s.pcnt.toNat + n := counted.pcnt
    refine ⟨_, hstep, .inr ⟨⟨everyStepKeepsTheInvariant _ _ h.inv hstep, h.quiet, h.mode, ?_, h.descriptor⟩, ?_⟩⟩
    · exact counted.phase.imp And.left And.left
    · omega

/-- The trailer step ends the pass, with the image that is complete by then or with an error kind. -/
theorem Decoding.trailer (h : Decoding d s) (hp : s.phase = .trailer) : ∃ t, step s = .next t ∧ DecodeEnds d t := by
  obtain hstep | hstep := step_decodeTrailer h.quiet h.mode hp
  · exact ⟨_, hstep, .inr (.inr (.inr rfl))⟩
  · refine ⟨_, hstep, .inl ⟨s.pixOut.map pixelOfWord, ?_, ?_⟩⟩
    · simp [State.result, h.mode, h.descriptor]
    · rw [List.length_map, h.inv.putCount (.inl (.inr hp)) h.mode, h.inv.complete (.inl hp), State.npix_eq_pixelCount,
        h.descriptor]

/-- From BODY or TRAILER the pass reaches its end, by induction on the pixels still missing. -/
theorem Decoding.ends (h : Decoding d s) : ∃ n t, runsTo n s t ∧ DecodeEnds d t := by
  induction hm : d.pixelCount - s.pcnt.toNat using Nat.strong_induction_on generalizing s with
  | _ m ih =>
    obtain hp | hp := h.pass
    · have missing := h.inv.missing hp
      rw [State.npix_eq_pixelCount, h.descriptor] at missing
      obtain ⟨u, hstep, hu | ⟨hu, more⟩⟩ := h.chunk hp
      · exact ⟨1, u, runsTo_one.2 hstep, hu⟩
      · obtain ⟨n, t, hrun, ht⟩ := ih (d.pixelCount - u.pcnt.toNat) (by omega) hu rfl
        exact ⟨n + 1, t, runsTo_succ.2 ⟨u, hstep, hrun⟩, ht⟩
    · obtain ⟨t, hstep, ht⟩ := h.trailer hp
      exact ⟨1, t, runsTo_one.2 hstep, ht⟩

/-! ### The pass from START -/

/-- The state after START(DECODE) over these bytes, no command behind it. -/
def State.decodeStarted (s : State) (bytes : List Byte) : State :=
  ((s.offerDecode bytes).boundary.startPass.setMode .decode).forgetDescriptor

theorem step_offerDecode (hi : s.phase.active = false) (bytes : List Byte) :
    step (s.offerDecode bytes) = .next (s.decodeStarted bytes) := by
  rw [step_of_offered (c := .startDecode) rfl]
  exact if_neg (Bool.eq_false_iff.1 hi)

theorem State.decodeStarted_inv (s : State) (bytes : List Byte) : (s.decodeStarted bytes).Inv :=
  have hu : (s.decodeStarted bytes).Unstarted := { (s.offerDecode bytes).boundary.startPass_unstarted with }
  hu.inv_header rfl rfl rfl

/-- The state in which a started pass with this legal header begins BODY. -/
def State.decodeOpened (s : State) (bytes : List Byte) (d : Descriptor) : State :=
  (((s.decodeStarted bytes).setDescriptor d).setPos 14).setPhase .body

theorem step_decodeStarted_short (h : decodeHeader bytes = .error .shortHeader) (s : State) :
    step (s.decodeStarted bytes) = .next ((s.decodeStarted bytes).raise s.params.shortHeaderErr) :=
  step_of_quiet_rejects (s := s.decodeStarted bytes) (p := .header) rfl rfl rfl h

theorem step_decodeStarted_illegal {magic w h : Word} {c cs : Byte} {rest : List Byte}
    (hd : decodeHeader bytes = .ok (.header magic w h c cs, rest))
    (hb : ¬(magic = s.params.magic ∧ legalDescriptor w h c cs = true)) :
    step (s.decodeStarted bytes) = .next ((s.decodeStarted bytes).raise .malformedHeader) :=
  (step_of_quiet_decodes (s := s.decodeStarted bytes) (p := .header) rfl rfl rfl hd).trans
    (exec_header_refused (s := s.decodeStarted bytes) rfl rfl hb)

theorem step_decodeStarted_legal {rest : List Byte} (hl : d.legal = true)
    (hd : decodeHeader bytes = .ok (.header s.params.magic d.width d.height d.channels d.colorspace, rest)) :
    step (s.decodeStarted bytes) = .next (s.decodeOpened bytes d) :=
  (step_of_quiet_decodes (s := s.decodeStarted bytes) (p := .header) rfl rfl rfl hd).trans
    (exec_header_legal (s := s.decodeStarted bytes) rfl rfl hl)

/-- Settles O58: START, the header step in its three outcomes, and after a legal header the pass from BODY. -/
theorem decodePassOutcome : Obligations.DecodePassOutcome := by
  intro s bytes hi
  have start := step_offerDecode hi bytes
  obtain short | ⟨magic, w, h, c, cs, rest, hd⟩ := decodeHeader_cases bytes
  · have header := step_decodeStarted_short short s
    exact ⟨2, _, runsTo_succ.2 ⟨_, start, runsTo_one.2 header⟩, fun _ => rfl,
      fun _ _ _ _ _ _ hd => nomatch short.symm.trans hd⟩
  have long : ¬ bytes.length < 14 := Nat.not_lt.2 (decodeHeader_length hd)
  by_cases legal : magic = s.params.magic ∧ legalDescriptor w h c cs = true
  · obtain ⟨rfl, hl⟩ := legal
    have header := step_decodeStarted_legal (d := ⟨w, h, c, cs⟩) hl hd
    have inv := everyStepKeepsTheInvariant _ _ (s.decodeStarted_inv bytes) header
    have decoding : Decoding ⟨w, h, c, cs⟩ (s.decodeOpened bytes ⟨w, h, c, cs⟩) := ⟨inv, rfl, rfl, .inl rfl, rfl⟩
    obtain ⟨n, t, hrun, ends⟩ := decoding.ends
    refine ⟨n + 2, t, runsTo_succ.2 ⟨_, start, runsTo_succ.2 ⟨_, header, hrun⟩⟩, fun hs => absurd hs long,
      fun _ _ _ _ _ _ hd' => ?_⟩
    cases hd.symm.trans hd'
    exact ⟨fun bad => absurd hl (by simpa using bad), fun _ _ => ends⟩
  · have header := step_decodeStarted_illegal hd legal
    refine ⟨2, _, runsTo_succ.2 ⟨_, start, runsTo_one.2 header⟩, fun hs => absurd hs long,
      fun _ _ _ _ _ _ hd' => ?_⟩
    cases hd.symm.trans hd'
    exact ⟨fun _ => rfl, fun hm hl => absurd ⟨hm, hl⟩ legal⟩

end Sys2Proof.Machine
end

section
/-! The round trip (`43_chunk_decoder.md` R155): the decoder follows the encoder from the header to the end marker. -/

namespace Sys2Proof.Machine

open Sys2Proof

variable {o s e u : State} {chunks : List Byte}

/-- A decoder beside an encoder that closes its stream puts no further pixel and ends with the encoder's pixels. -/
theorem Mirrors.closes {m : State} (h : Mirrors e m (encode .endMark)) (hp : e.phase = .trailer) (hr : e.run = 0)
    (all : e.pcnt.toNat = e.pixIn.length) :
    ∃ v, step m = .next v ∧ v.result = some (.decoded e.descriptor (e.pixIn.map pixelOfWord)) := by
  have phase : m.phase = .trailer := h.phases.2.trans hp
  have marker : decodeEnd (m.unread m.bpos) = .ok (.endMark, []) := by rw [h.stream]; rfl
  have last : m.len ≤ m.bpos + 8 := by
    have length : m.len - m.bpos = 8 := List.length_drop.symm.trans (congrArg List.length h.stream)
    omega
  have image : m.pixOut = e.pixIn := by
    have counts : m.pcnt.toNat = e.pcnt.toNat := by simpa [hr] using h.counts
    rw [h.pixels, counts, all, List.take_length]
  refine ⟨_, (step_of_quiet_decodes (p := .trailer) h.quiet.2 h.modes.2 phase marker).trans
    (exec_endMark_finishes h.modes.2 phase (.inr last)), ?_⟩
  simp [State.result, h.modes.2, h.descriptors, image]

/-- The pass of an encoder in `s` ends with a stream, and a decoder beside it that has the rest of this stream before it
ends with the encoder's image. -/
def State.RoundTrips (s : State) : Prop :=
  ∃ n t tail, runsTo n s t ∧ t.result = some (.encoded (s.byteOut ++ tail)) ∧
    ∀ m, Mirrors s m tail → ∃ k v, runsTo k m v ∧ v.result = some (.decoded s.descriptor (s.pixIn.map pixelOfWord))

/-- The decoder follows a pixel step over the bytes it emits (`40_color_cache.md` R79). -/
theorem State.RoundTrips.of_pixel_step (hu : u.RoundTrips) (hi : s.Inv) (hq : s.cmdIn = []) (hp : s.phase = .body)
    (hpass : u.inPass) (hstep : step s = .next u) : s.RoundTrips := by
  have effect := passEffect_of_quiet hq hstep
  obtain ⟨emitted, bytes⟩ := effect.byteOut_prefix
  obtain ⟨-, pixIn, -⟩ := effect.sameInputs
  have descriptor : u.descriptor = s.descriptor :=
    effect.descriptor.resolve_right fun ⟨_, hh, _⟩ => nomatch hp.symm.trans hh
  have running : u.phase ≠ .error := by obtain h | h := hpass <;> exact h.trans_ne nofun
  obtain ⟨n, t, tail, hrun, result, decodes⟩ := hu
  rw [pixIn, descriptor] at decodes
  rw [← bytes, List.append_assoc] at result
  refine ⟨n + 1, t, emitted ++ tail, runsTo_succ.2 ⟨u, hstep, hrun⟩, result, fun m hm => ?_⟩
  obtain ⟨j, m', -, hj, hm'⟩ := decoderMirrorsTheEncoder s m u emitted tail hi hp hm hstep running bytes.symm
  obtain ⟨k, v, hk, image⟩ := decodes m' hm'
  exact ⟨j + k, v, runsTo_add hj hk, image⟩

/-- In TRAILER of a source that has ended, both passes close with the end marker. -/
theorem Progress.roundTrips_trailer (h : Progress o s chunks) (hp : s.phase = .trailer)
    (hlen : o.pixIn.length = o.npix.toNat) : s.RoundTrips := by
  have all : s.pcnt.toNat = s.pixIn.length := by rw [h.inv.complete (.inl hp), h.npix, h.pixIn, hlen]
  have hstep : step s = .next ((s.emit (encode .endMark)).setPhase .done) :=
    (step_encodeTrailer (State.offered_of_quiet h.quiet) h.mode_encode hp).trans
      ((congrArg _ (State.boundary_of_quiet h.quiet)).trans (encodeTrailer_ended all.ge))
  refine ⟨1, _, encode .endMark, runsTo_one.2 hstep, ?_, fun m hm => ?_⟩
  · simp [State.result, h.mode_encode]
  · obtain ⟨v, hv, image⟩ := hm.closes hp (h.inv.trailerRun hp) all
    exact ⟨1, v, runsTo_one.2 hv, image⟩

/-- With as many pixels as declared the pass of the encoder makes the round trip, by induction on the pixels still
missing. -/
theorem Progress.roundTrips (h : Progress o s chunks) (hpass : s.inPass) (hlen : o.pixIn.length = o.npix.toNat) :
    s.RoundTrips := by
  induction hm : o.npix.toNat - s.pcnt.toNat using Nat.strong_induction_on generalizing s chunks with
  | _ m ih =>
    obtain hp | hp := hpass
    · have missing := h.npix ▸ h.inv.missing hp
      have hsource := congrArg List.length h.pixIn
      cases hn : s.nextPixel with
      | none =>
        have ended := s.nextPixel_eq_none_iff.1 hn
        omega
      | some px =>
        obtain ⟨u, chunks', hstep, hu, hpass', more⟩ := h.pixel hp hn
        have trip := ih (o.npix.toNat - u.pcnt.toNat) (by omega) hu hpass' rfl
        exact trip.of_pixel_step h.inv h.quiet hp hpass' hstep
    · exact h.roundTrips_trailer hp hlen

/-! ### The two passes from START -/

/-- After the header steps the decoder stands beside the encoder, with the bytes after the header before it. -/
theorem mirrors_opened (s u : State) (d : Descriptor) (pixels : List Pixel) (magic : Word) (tail : List Byte) :
    Mirrors (s.encodeOpened d pixels)
      (u.decodeOpened (encode (.header magic d.width d.height d.channels d.colorspace) ++ tail) d) tail where
  modes := ⟨rfl, rfl⟩
  phases := ⟨.inl rfl, rfl⟩
  quiet := ⟨rfl, rfl⟩
  caches := rfl
  prevs := rfl
  descriptors := rfl
  counts := rfl
  pixels := rfl
  stream := rfl

/-- Settles O59: the header goes over as it is, then the pass of the encoder from BODY makes the round trip. -/
theorem decodeOfEncodeIsThePixels : Obligations.DecodeOfEncodeIsThePixels := by
  intro s u d pixels hs hu magic hl hlen
  have length : (s.encodeOpened d pixels).pixIn.length = (s.encodeOpened d pixels).npix.toNat := by
    rw [State.encodeOpened_npix, ← hlen]
    exact List.length_map _
  obtain ⟨n, t, tail, hrun, encoded, decodes⟩ := (encodeOpened_progress hl s pixels).roundTrips (.inl rfl) length
  obtain ⟨m, v, hrun', decoded⟩ := decodes _ (mirrors_opened s u d pixels s.params.magic tail)
  have image : (s.encodeOpened d pixels).pixIn.map pixelOfWord = pixels :=
    Function.LeftInverse.list_map pixelOfWord_wordOfPixel pixels
  rw [image] at decoded
  have header : decodeHeader (encode (.header s.params.magic d.width d.height d.channels d.colorspace) ++ tail) =
      .ok (.header u.params.magic d.width d.height d.channels d.colorspace, tail) := by
    rw [magic]
    exact decodeHeader_encode _ _ _ _ _ tail
  refine ⟨n + 2, t, _, m + 2, v, ?_, encoded, ?_, decoded⟩
  · exact runsTo_succ.2 ⟨_, step_offerEncode hs d pixels, runsTo_succ.2 ⟨_, step_encodeStarted_legal hl s pixels, hrun⟩⟩
  · exact runsTo_succ.2 ⟨_, step_offerDecode hu _, runsTo_succ.2 ⟨_, step_decodeStarted_legal hl header, hrun'⟩⟩

end Sys2Proof.Machine
end

section
/-! Exceptions and commands (`60_exceptions.md`): what entering ERROR writes, what leads on from a phase with no pass active,
what the commands do in a pass, and that a state of the invariant always has a next one. -/

namespace Sys2Proof.Machine

open Sys2Proof

variable {s t : State} {c : Command} {i : Instr}

/-! ### The error entry -/

/-- The only effect of a step of the pass that ends in ERROR is the error entry (R165). -/
theorem PassEffect.eq_raise (h : PassEffect s t) (hs : s.phase ≠ .error) (ht : t.phase = .error) :
    ∃ k, t = s.raise k := by
  cases h with
  | wait _ => exact absurd ht hs
  | raise k _ => exact ⟨k, rfl⟩
  | pixel _ hp _ hu =>
    obtain ⟨h, -⟩ | ⟨h, -⟩ := State.countPixels_phase_cases (hu.phase.trans hp) 1 <;> exact nomatch h.symm.trans ht
  | chunk cache px n len _ hp _ _ _ => exact absurd ht (State.chunkDone_phase_ne_error hp cache px n len)
  | openEncode _ _ _ _ => cases ht
  | openDecode _ _ _ _ _ => cases ht
  | closeEncode _ _ => cases ht
  | closeDecode _ _ => cases ht

/-- Settles O25: no command leads into ERROR, and of the effects of a pass only the error entry does. -/
theorem errorEntryWritesPhaseAndErrOnly : Obligations.ErrorEntryWritesPhaseAndErrOnly := by
  intro s t h hs ht
  obtain ⟨-, -, hp⟩ | ⟨-, rfl | ⟨-, rfl⟩⟩ | hp := step_split h
  · exact nomatch hp.symm.trans ht
  · exact absurd ht hs
  · cases ht
  · exact hp.eq_raise hs ht

/-! ### The commands -/

/-- A START is refused while a pass is active (R171). -/
theorem command_of_start (hc : c.isStart = true) (ha : s.phase.active = true) :
    command c s = .refused .startDuringPass := by
  cases c with
  | startEncode d => exact if_pos ha
  | startDecode => exact if_pos ha
  | abort => cases hc

/-- With no pass active every command is answered. -/
theorem command_completes (c : Command) (hi : s.phase.active = false) : ∃ t, command c s = .next t := by
  have inactive : ¬ s.phase.active = true := Bool.eq_false_iff.1 hi
  cases c with
  | startEncode d => exact ⟨_, if_neg inactive⟩
  | startDecode => exact ⟨_, if_neg inactive⟩
  | abort => exact ⟨_, rfl⟩

theorem Command.isStart_iff (c : Command) : c.isStart = true ↔ c ≠ .abort := by
  cases c <;> simp [Command.isStart]

/-- The one command that is no START. -/
theorem State.abort_of_not_start (ho : s.offered = some c) (hs : ¬ s.startOffered) : c = .abort :=
  not_not.1 fun hc => hs ⟨c, ho, c.isStart_iff.2 hc⟩

/-- A START during a pass stops the step. -/
theorem step_startDuringPass (ha : s.phase.active = true) (hs : s.startOffered) :
    step s = .refused .startDuringPass := by
  obtain ⟨c, ho, hc⟩ := hs
  exact (step_of_offered ho).trans (command_of_start (s := s.boundary) hc ha)

/-- Settles O37: a command other than ABORT is a START. -/
theorem startDuringAPassIsRefused : Obligations.StartDuringAPassIsRefused :=
  fun _ c ha ho hc => step_startDuringPass ha ⟨c, ho, c.isStart_iff.2 hc⟩

/-- Settles O38: ABORT writes PHASE of the boundary state in an active phase, and nothing in the others. -/
theorem abortEndsThePass : Obligations.AbortEndsThePass := by
  intro s ho
  rw [step_of_offered ho]
  exact ⟨fun ha => congrArg _ (if_pos ha), fun hi => congrArg _ (if_neg (Bool.eq_false_iff.1 hi))⟩

/-! ### The way out of ERROR, DONE and IDLE -/

/-- START leaves the running state of R190: HEADER, ERR cleared, default pixels, and both positions and OLEN zero. -/
theorem CommandEffect.started (h : CommandEffect s c t) (hc : c.isStart = true) :
    t.Unstarted ∧ t.phase = .header ∧ t.bpos = 0 ∧ t.olen = 0 := by
  cases h with
  | startEncode d _ => exact ⟨{ s.startPass_unstarted with }, rfl, rfl, rfl⟩
  | startDecode _ => exact ⟨{ s.startPass_unstarted with }, rfl, rfl, rfl⟩
  | abort _ => cases hc
  | ignore _ => cases hc

/-- Without START a step with no pass active waits, or takes an ABORT that does nothing. -/
theorem step_of_inactive (hi : s.phase.active = false) (hs : ¬ s.startOffered) : step s = .next s.boundary := by
  cases ho : s.offered with
  | none => exact inactiveCoreWaits s hi ho
  | some c =>
    obtain rfl := State.abort_of_not_start ho hs
    exact (abortEndsThePass s ho).2 hi

/-- Settles O26: START is the only step that leads on from there, and it resets the running state. -/
theorem onlyStartLeavesAnInactivePhase : Obligations.OnlyStartLeavesAnInactivePhase := by
  intro s t h hi
  refine ⟨fun ⟨c, ho, hc⟩ => ?_, fun hs => next_inj.1 (h.symm.trans (step_of_inactive hi hs))⟩
  have effect : CommandEffect s.boundary c t := command_next ((step_of_offered ho).symm.trans h)
  obtain ⟨fresh, hp, hb, hl⟩ := effect.started hc
  exact ⟨hp, fresh.err, fresh.slots, fresh.prev, fresh.run, fresh.pcnt, hb, hl⟩

/-! ### A state of the invariant has a next one -/

/-- The place of a phase of a pass is the place of the records that are executed in it. -/
theorem placePhase_fetchPlace {p : Phase} (ha : p.active = true) : placePhase (fetchPlace p) = p := by
  cases p with
  | header => rfl
  | body => rfl
  | trailer => rfl
  | idle => cases ha
  | done => cases ha
  | error => cases ha

/-- What the decoder fetches is a record, and the phase is the one that enables it. -/
theorem fetch_enabled (h : fetch s = .ok i) (ha : s.phase.active = true) :
    i.wellFormed = true ∧ s.phase = placePhase i.place := by
  unfold fetch at h
  dsimp only at h
  split at h
  · cases h
    obtain ⟨hw, place, -⟩ := encodeOfDecodedBytes _ _ _ _ ‹_›
    exact ⟨hw, by rw [place, placePhase_fetchPlace ha]⟩
  · cases h

/-- A decoder step of an active pass executes the record fetched, or raises. -/
theorem decodeStep_completes (hm : s.mode = .decode) (ha : s.phase.active = true) : ∃ t, decodeStep s = .next t := by
  unfold decodeStep
  split
  · obtain ⟨hw, hp⟩ := fetch_enabled ‹_› ha
    exact exec_completes hw hm hp
  · exact ⟨_, rfl⟩

theorem encodeHeader_completes (s : State) : ∃ t, encodeHeader s = .next t := by
  cases h : s.descriptor.legal with
  | true => exact ⟨_, encodeHeader_legal h⟩
  | false => exact ⟨_, encodeHeader_illegal h⟩

theorem encodeTrailer_completes (s : State) : ∃ t, encodeTrailer s = .next t := by
  obtain h | h := Nat.lt_or_ge s.pcnt.toNat s.pixIn.length
  · exact ⟨_, encodeTrailer_surplus h⟩
  · exact ⟨_, encodeTrailer_ended h⟩

/-- An encoder step goes on in every phase; in BODY because RUN is at most 61, so that the packer takes the run (R175). -/
theorem encodeStep_completes (hi : s.Inv) : ∃ t, encodeStep s = .next t := by
  unfold encodeStep
  split
  · exact encodeHeader_completes s
  · exact encodePixel_completes (hi.runBound (.inl ‹_›))
  · exact encodeTrailer_completes s
  · exact ⟨_, rfl⟩
  · exact ⟨_, rfl⟩
  · exact ⟨_, rfl⟩

theorem passStep_completes (hi : s.Inv) : ∃ t, passStep s = .next t := by
  unfold passStep
  split
  · split
    · exact encodeStep_completes hi
    · exact decodeStep_completes ‹_› ‹_›
  · exact ⟨_, rfl⟩

/-- Settles O34: a command is answered unless it is a START during a pass, and a step of the pass always is. -/
theorem invariantStatesNeverStop : Obligations.InvariantStatesNeverStop := by
  intro s hi
  refine ⟨fun hstart => ?_, step_startDuringPass⟩
  cases ho : s.offered with
  | none => exact step_of_quiet ho ▸ passStep_completes hi.boundary
  | some c =>
    cases ha : s.phase.active with
    | false => exact step_of_offered ho ▸ command_completes (s := s.boundary) c ha
    | true =>
      obtain rfl := State.abort_of_not_start ho fun hs => hstart ⟨ha, hs⟩
      exact ⟨_, (abortEndsThePass s ho).1 ha⟩

end Sys2Proof.Machine
end

section
/-! Resets and hazards (`70_reset_and_hazards.md`): what START leaves, and that a pass of finite input comes to its end. -/

namespace Sys2Proof.Machine

open Sys2Proof

variable {s t : State} {c : Command}

/-! ### START -/

/-- START takes the mode it names, and in ENCODE mode the descriptor. -/
theorem CommandEffect.mode_of_start (h : CommandEffect s c t) :
    (∀ d, c = .startEncode d → t.mode = .encode ∧ t.descriptor = d) ∧ (c = .startDecode → t.mode = .decode) := by
  cases h with
  | startEncode d _ => exact ⟨fun _ e => by cases e; exact ⟨rfl, rfl⟩, nofun⟩
  | startDecode _ => exact ⟨nofun, fun _ => rfl⟩
  | abort _ => exact ⟨nofun, nofun⟩
  | ignore _ => exact ⟨nofun, nofun⟩

/-- Settles O36: with no pass active a START is answered, with the reset state of a new pass and the inputs as before. -/
theorem startResetsThePass : Obligations.StartResetsThePass := by
  refine ⟨⟨rfl, rfl⟩, fun s c hi ho hc => ?_⟩
  obtain ⟨t, answer⟩ := command_completes (s := s.boundary) c hi
  have hstep : step s = .next t := (step_of_offered ho).trans answer
  obtain ⟨encodes, decodes⟩ := (command_next answer).mode_of_start
  obtain ⟨byteIn, pixIn, params⟩ := step_sameInputs hstep
  obtain ⟨phase, err, slots, prev, run, pcnt, bpos, olen⟩ :=
    (onlyStartLeavesAnInactivePhase s t hstep hi).1 ⟨c, ho, c.isStart_iff.2 hc⟩
  exact ⟨t, hstep, slots, prev, run, pcnt, err, bpos, olen, phase, encodes, decodes, byteIn, pixIn, params⟩

/-! ### What a step of a pass changes -/

/-- After the header step NPIX stays what it is until the pass ends. -/
theorem PassEffect.npix (h : PassEffect s t) (hp : s.phase ≠ .header) : t.npix = s.npix :=
  State.npix_of_descriptor (h.descriptor.resolve_right fun ⟨_, header, _⟩ => hp header)

/-- The header step and the trailer step leave their phase (`10_state.md` R17). -/
theorem PassEffect.phase_ne (h : PassEffect s t) (ha : s.phase.active = true) (hp : s.phase ≠ .body) :
    t.phase ≠ s.phase := by
  cases h with
  | wait hi => exact nomatch hi.symm.trans ha
  | raise k _ => exact (Phase.ne_error_of_active ha).symm
  | openEncode _ _ _ _ => exact hp.symm
  | openDecode _ _ _ _ _ => exact hp.symm
  | pixel _ body _ _ => exact absurd body hp
  | chunk _ _ _ _ _ body _ _ _ => exact absurd body hp
  | closeEncode _ trailer => exact trailer ▸ nofun
  | closeDecode _ trailer => exact trailer ▸ nofun

theorem PassEffect.phase_of_header (h : PassEffect s t) (hp : s.phase = .header) : t.phase = .body ∨ t.phase = .error := by
  have moved := h.phase_ne (by rw [hp]; rfl) (by rw [hp]; nofun)
  obtain ⟨-, body⟩ | ⟨body, -⟩ | ⟨trailer, -⟩ | ⟨-, error⟩ := h.phase moved
  · exact .inl body
  · exact nomatch hp.symm.trans body
  · exact nomatch hp.symm.trans trailer
  · exact .inr error

theorem PassEffect.phase_of_trailer (h : PassEffect s t) (hp : s.phase = .trailer) :
    t.phase = .done ∨ t.phase = .error := by
  have moved := h.phase_ne (by rw [hp]; rfl) (by rw [hp]; nofun)
  obtain ⟨header, -⟩ | ⟨body, -⟩ | ⟨-, done⟩ | ⟨-, error⟩ := h.phase moved
  · exact nomatch hp.symm.trans header
  · exact nomatch hp.symm.trans body
  · exact .inl done
  · exact .inr error

/-- With no command in the schedule a step of an invariant state is a step of the pass that goes on. -/
theorem State.Inv.quiet_step (hi : s.Inv) (hq : s.cmdIn = []) : ∃ t, step s = .next t ∧ PassEffect s t := by
  obtain ⟨t, answer⟩ := passStep_completes hi.boundary
  have hstep : step s = .next t := (step_of_quiet (State.offered_of_quiet hq)).trans answer
  exact ⟨t, hstep, passEffect_of_quiet hq hstep⟩

/-- A step in BODY raises, or counts at least one of the pixels missing. -/
theorem State.Inv.step_body (hi : s.Inv) (hq : s.cmdIn = []) (hp : s.phase = .body) :
    ∃ t, step s = .next t ∧ (t.phase = .error ∨ ∃ n, 1 ≤ n ∧ Counted s t n) := by
  cases hm : s.mode with
  | encode =>
    obtain ⟨t, hstep, -⟩ := hi.quiet_step hq
    refine ⟨t, hstep, (step_coded hi hq hm hp hstep).imp_right fun ⟨px, u, hu, ht⟩ => ⟨1, le_rfl, ?_⟩⟩
    exact ht ▸ hi.counted hp (.inl rfl) hu.phase hu.pcnt hu.err hu.descriptor
  | decode =>
    obtain hstep | hstep | ⟨cache, px, n, len, h1, hn, hstep⟩ := step_chunk hq hm hp
    · exact ⟨_, hstep, .inl rfl⟩
    · exact ⟨_, hstep, .inl rfl⟩
    · have counted := hi.counted (u := (State.putPixels { s with cache := cache } n px).setPrev px) hp hn rfl rfl rfl
        rfl
      exact ⟨_, hstep, .inr ⟨n, h1, { counted with }⟩⟩

/-! ### The end of a pass -/

/-- A pass that has taken `k` steps when it stands in `s` ends within the bound of R200: one header step, NPIX body
steps, one trailer step. -/
def State.EndsAfter (s : State) (k : Nat) : Prop :=
  ∃ n t, runsTo n s t ∧ n + k ≤ t.npix.toNat + 2 ∧ (t.phase = .done ∨ t.phase = .error)

theorem State.EndsAfter.of_ended {k : Nat} (ht : t.phase = .done ∨ t.phase = .error) (hk : k ≤ t.npix.toNat + 2) :
    t.EndsAfter k :=
  ⟨0, t, runsTo_zero.2 rfl, by omega, ht⟩

theorem State.EndsAfter.of_step {k : Nat} (hstep : step s = .next t) (h : t.EndsAfter (k + 1)) : s.EndsAfter k := by
  obtain ⟨n, u, hrun, bound, ended⟩ := h
  exact ⟨n + 1, u, runsTo_succ.2 ⟨t, hstep, hrun⟩, by omega, ended⟩

/-- The trailer step is the last one. -/
theorem State.Inv.endsAfter_trailer (hi : s.Inv) (hq : s.cmdIn = []) (hp : s.phase = .trailer) {k : Nat}
    (hk : k ≤ s.pcnt.toNat + 1) : s.EndsAfter k := by
  obtain ⟨t, hstep, effect⟩ := hi.quiet_step hq
  have npix := effect.npix (by rw [hp]; nofun)
  have complete := hi.complete (.inl hp)
  refine .of_step hstep (.of_ended (effect.phase_of_trailer hp) ?_)
  rw [npix, ← complete]
  omega

/-- Between header step and end at most one step was the header step and every other has counted a pixel, so that the bound
holds by induction on the pixels still missing. -/
theorem State.Inv.endsAfter (hi : s.Inv) (hq : s.cmdIn = []) (hpass : s.inPass) {k : Nat}
    (hk : k ≤ s.pcnt.toNat + 1) : s.EndsAfter k := by
  induction hm : s.npix.toNat - s.pcnt.toNat using Nat.strong_induction_on generalizing s k with
  | _ m ih =>
    obtain hp | hp := hpass
    · have missing := hi.missing hp
      obtain ⟨t, hstep, outcome⟩ := hi.step_body hq hp
      have effect := passEffect_of_quiet hq hstep
      have npix := effect.npix (by rw [hp]; nofun)
      refine .of_step hstep ?_
      obtain error | ⟨n, h1, counted⟩ := outcome
      · exact .of_ended (.inr error) (by rw [npix]; omega)
      · have pcnt := counted.pcnt
        exact ih (t.npix.toNat - t.pcnt.toNat) (by rw [npix]; omega) (everyStepKeepsTheInvariant _ _ hi hstep)
          (effect.cmdIn.trans hq) (counted.phase.imp And.left And.left) (by omega) rfl
    · exact hi.endsAfter_trailer hq hp hk

/-- The header step is the first one. -/
theorem State.Inv.endsAfter_header (hi : s.Inv) (hq : s.cmdIn = []) (hp : s.phase = .header) : s.EndsAfter 0 := by
  obtain ⟨t, hstep, effect⟩ := hi.quiet_step hq
  refine .of_step hstep ?_
  obtain body | error := effect.phase_of_header hp
  · exact (everyStepKeepsTheInvariant _ _ hi hstep).endsAfter (effect.cmdIn.trans hq) (.inl body) (by omega)
  · exact .of_ended (.inr error) (by omega)

/-- Settles O35, by the phase in which the pass stands. -/
theorem everyPassEnds : Obligations.EveryPassEnds := by
  intro s hi ha hq
  cases hp : s.phase with
  | header => exact hi.endsAfter_header hq hp
  | body => exact hi.endsAfter hq (.inl hp) (Nat.zero_le _)
  | trailer => exact hi.endsAfter hq (.inr hp) (Nat.zero_le _)
  | idle => rw [hp] at ha; cases ha
  | done => rw [hp] at ha; cases ha
  | error => rw [hp] at ha; cases ha

end Sys2Proof.Machine
end

section
/-! Bytes written out from the layouts (`95_test_vectors.md` B4). Each row of that table holds in both directions, so that a
row of the unpacker is read off the packer. -/

namespace Sys2Proof

theorem decodeAt_eq_ok_iff {p : Place} {bs rest : List Byte} {i : Instr} :
    decodeAt p bs = .ok (i, rest) ↔ i.wellFormed = true ∧ i.place = p ∧ encode i ++ rest = bs := by
  constructor
  · exact encodeOfDecodedBytes p bs i rest
  · rintro ⟨wellFormed, rfl, rfl⟩
    exact decodeOfEncodedRecord i rest wellFormed

/-- Settles O6: the bytes of each row are those the packer forms of its record. -/
theorem writtenBytesDecode : Obligations.WrittenBytesDecode := by
  simp only [Obligations.WrittenBytesDecode, decodeAt_eq_ok_iff]
  decide

end Sys2Proof
end
